-- ==== Sys2Proof/Word.lean ====
section
/-! DEFINITION. The words of the block: registers are 32 bits (R8), a window offset is 12 bits (R60), an access selector is
15 bits (R80). -/

namespace Sys2Proof

/-- A register, a FIFO entry or a bus data word: 32 bits (00_scope.md R8). -/
abbrev Word := BitVec 32

/-- A byte, the unit in which this model lays an access out for the decoder. -/
abbrev Byte := BitVec 8

/-- A byte offset in the 4 KiB register window (20_memory.md R60). -/
abbrev Offset := BitVec 12

/-- The 15-bit access selector of format ACC (30_encoding.md R80). -/
abbrev Selector := BitVec 15

end Sys2Proof
end

