-- ==== Sys2Proof/Config.lean ====
section
/-! DEFINITION. The parameters of 92_eei_decisions.md and the free values of 60_exceptions.md R228. What the spec fixes or gives
a default for has a body; what it leaves OPEN is a constant without one. -/

namespace Sys2Proof

/-- What an overflowing frame does to the RX FIFO while ROOE = 1 (45_transfer_sequencer.md R186, decision D18). -/
inductive RooePolicy where
  | discard
  | replaceNewest
  deriving DecidableEq, Repr, Inhabited

/-- The pin-mux target, chosen at build time and without effect on the block (00_scope.md R12). -/
inductive PinVariant where
  | portC4to7
  | portD0to3
  deriving DecidableEq, Repr, Inhabited

namespace Config

/-- `WINDOW_SIZE` (00_scope.md R9). -/
def windowSize : Nat := 4096

/-- `TX_DEPTH` (00_scope.md R10). -/
def txDepth : Nat := 4

/-- `RX_DEPTH` (00_scope.md R10). -/
def rxDepth : Nat := 4

/-- `N_CTAR` (00_scope.md R11). -/
def nCtar : Nat := 2

/-- `N_PCS` (00_scope.md R11). -/
def nPcs : Nat := 6

/-- The upper 20 bits of `SPI_BASE`, an open parameter: any 4 KiB-aligned 32-bit address (92_eei_decisions.md, D5). -/
opaque spiPage : BitVec 20

/-- `SPI_BASE` (00_scope.md R9): 4 KiB-aligned by construction. -/
def spiBase : BitVec 32 := spiPage ++ 0x000#12

/-- The default of `SPI_BASE` (00_scope.md R9); nothing in the model rests on it. -/
def defaultSpiBase : BitVec 32 := 0x4002C000#32

/-- `SPI0_IRQ` on the MK20DX256 (60_exceptions.md R229); nothing in the model rests on it. -/
def spi0Irq : Nat := 26

/-- One less than the numerator of `F_BUS` in hertz: `F_BUS` is OPEN and positive (00_scope.md R13, D44). -/
opaque fBusNumPred : Nat

/-- One less than the denominator of `F_BUS` in hertz. -/
opaque fBusDenPred : Nat

/-- `F_BUS`, the bus clock frequency in hertz: any positive fraction (00_scope.md R13; log entry 9). -/
def fBus : Rat := ((fBusNumPred + 1 : Nat) : Rat) / ((fBusDenPred + 1 : Nat) : Rat)

/-- `ROOE_POLICY`, OPEN (45_transfer_sequencer.md R186). -/
opaque rooePolicy : RooePolicy

/-- `PIN_VARIANT`, OPEN (00_scope.md R12). -/
opaque pinVariant : PinVariant

/-- The default of `MAX_POLLS`: unbounded (46_driver_sequences.md R215). -/
def maxPolls : Option Nat := none

/-- The default of `CHECK_FAULTS` (46_driver_sequences.md R210). -/
def checkFaults : Bool := false

/-- The free values: the k-th draw of a run (60_exceptions.md R228). No law constrains any of them, and State counts them, so
two draws are never the same one. -/
opaque freeWord : Nat → Word

end Config

end Sys2Proof
end

