-- ==== Sys2Proof/Syntax.lean ====
section
/-! DEFINITION. The accesses of the block: one constructor of `Instr` per row of spec/opcode_table.json (30_encoding.md R83), and
the bus access a host issues (20_memory.md R60). -/

namespace Sys2Proof

/-- One admitted access. A read has no operand; a write carries its whole 32-bit word (30_encoding.md R84). -/
inductive Instr where
  | rdMcr
  | wrMcr (v : Word)
  | rdTcr
  | wrTcr (v : Word)
  | rdCtar0
  | wrCtar0 (v : Word)
  | rdCtar1
  | wrCtar1 (v : Word)
  | rdSr
  | wrSr (v : Word)
  | rdRser
  | wrRser (v : Word)
  | wrPushr (v : Word)
  | rdPushr
  | rdPopr
  | wrPopr (v : Word)
  | rdTxfr0
  | rdTxfr1
  | rdTxfr2
  | rdTxfr3
  | wrTxfr0 (v : Word)
  | wrTxfr1 (v : Word)
  | wrTxfr2 (v : Word)
  | wrTxfr3 (v : Word)
  | rdRxfr0
  | rdRxfr1
  | rdRxfr2
  | rdRxfr3
  | wrRxfr0 (v : Word)
  | wrRxfr1 (v : Word)
  | wrRxfr2 (v : Word)
  | wrRxfr3 (v : Word)
  deriving DecidableEq, Repr

/-- A host access that reaches the window: `MemRead(SPI_BASE + off, size)` or `MemWrite(SPI_BASE + off, size, data)`
(20_memory.md R60). `size` is any number of bytes. A read carries no data, and `data` is then ignored. -/
structure BusAccess where
  write : Bool
  size : Nat
  off : Offset
  data : Word
  deriving DecidableEq, Repr

end Sys2Proof
end

