-- ==== Sys2Proof/WellFormed.lean ====
section
/-! DEFINITION. Which bus accesses are legal encodings: exactly those of 30_encoding.md R81 (32 bits wide, word-aligned, at a
mapped offset of 10_state.md R21). Every term of `Instr` names such an access, since its only operand is a whole word. -/

namespace Sys2Proof

/-! The register offsets (10_state.md R21). -/

namespace Off

def mcr : Offset := 0x000#12
def tcr : Offset := 0x008#12
def ctar0 : Offset := 0x00C#12
def ctar1 : Offset := 0x010#12
def sr : Offset := 0x02C#12
def rser : Offset := 0x030#12
def pushr : Offset := 0x034#12
def popr : Offset := 0x038#12
def txfr0 : Offset := 0x03C#12
def txfr1 : Offset := 0x040#12
def txfr2 : Offset := 0x044#12
def txfr3 : Offset := 0x048#12
def rxfr0 : Offset := 0x07C#12
def rxfr1 : Offset := 0x080#12
def rxfr2 : Offset := 0x084#12
def rxfr3 : Offset := 0x088#12

end Off

/-- The mapped offsets: every other offset is reserved (20_memory.md R67). -/
def mappedOffsets : List Offset :=
  [Off.mcr, Off.tcr, Off.ctar0, Off.ctar1, Off.sr, Off.rser, Off.pushr, Off.popr,
   Off.txfr0, Off.txfr1, Off.txfr2, Off.txfr3, Off.rxfr0, Off.rxfr1, Off.rxfr2, Off.rxfr3]

/-- The access is 4 bytes wide (20_memory.md R62). -/
def BusAccess.widthOk (a : BusAccess) : Bool := a.size == 4

/-- The offset is a multiple of 4 (20_memory.md R63). -/
def BusAccess.alignedOk (a : BusAccess) : Bool := a.off.toNat % 4 == 0

/-- A register stands at the offset (20_memory.md R67). -/
def BusAccess.mappedOk (a : BusAccess) : Bool := mappedOffsets.contains a.off

/-- The access is a legal encoding (30_encoding.md R81). -/
def BusAccess.WellFormed (a : BusAccess) : Bool := a.widthOk && a.alignedOk && a.mappedOk

/-- A 32-bit read of the register at `off`. -/
def BusAccess.rd (off : Offset) : BusAccess := ⟨false, 4, off, 0#32⟩

/-- A 32-bit write of `v` to the register at `off`. -/
def BusAccess.wr (off : Offset) (v : Word) : BusAccess := ⟨true, 4, off, v⟩

/-- The bus access an instruction stands for (30_encoding.md R83). -/
def Instr.access : Instr → BusAccess
  | .rdMcr => .rd Off.mcr
  | .wrMcr v => .wr Off.mcr v
  | .rdTcr => .rd Off.tcr
  | .wrTcr v => .wr Off.tcr v
  | .rdCtar0 => .rd Off.ctar0
  | .wrCtar0 v => .wr Off.ctar0 v
  | .rdCtar1 => .rd Off.ctar1
  | .wrCtar1 v => .wr Off.ctar1 v
  | .rdSr => .rd Off.sr
  | .wrSr v => .wr Off.sr v
  | .rdRser => .rd Off.rser
  | .wrRser v => .wr Off.rser v
  | .wrPushr v => .wr Off.pushr v
  | .rdPushr => .rd Off.pushr
  | .rdPopr => .rd Off.popr
  | .wrPopr v => .wr Off.popr v
  | .rdTxfr0 => .rd Off.txfr0
  | .rdTxfr1 => .rd Off.txfr1
  | .rdTxfr2 => .rd Off.txfr2
  | .rdTxfr3 => .rd Off.txfr3
  | .wrTxfr0 v => .wr Off.txfr0 v
  | .wrTxfr1 v => .wr Off.txfr1 v
  | .wrTxfr2 v => .wr Off.txfr2 v
  | .wrTxfr3 v => .wr Off.txfr3 v
  | .rdRxfr0 => .rd Off.rxfr0
  | .rdRxfr1 => .rd Off.rxfr1
  | .rdRxfr2 => .rd Off.rxfr2
  | .rdRxfr3 => .rd Off.rxfr3
  | .wrRxfr0 v => .wr Off.rxfr0 v
  | .wrRxfr1 v => .wr Off.rxfr1 v
  | .wrRxfr2 v => .wr Off.rxfr2 v
  | .wrRxfr3 v => .wr Off.rxfr3 v

/-- An instruction is well-formed when its access is a legal encoding. -/
def Instr.WellFormed (i : Instr) : Bool := i.access.WellFormed

end Sys2Proof
end

