-- ==== Sys2Proof/Decode.lean ====
section
/-! DEFINITION. Decoding of accesses (30_encoding.md R80 to R83): the opcode table, the decoder of a selector with its data word,
of a bus access and of bytes, the encoder, and the reasons an access is no row of the table. -/

namespace Sys2Proof

/-- Why a bus access is answered with a bus error (60_exceptions.md R221, codes 1 to 5). `clockGated` is raised by the bus checks
on the state (20_memory.md R65), `fetch` by an instruction fetch (R74), the other three by the decoder. -/
inductive BusReason where
  | clockGated
  | badWidth (size : Nat)
  | misaligned
  | unmapped
  | fetch
  deriving DecidableEq, Repr

/-- What decoding a bus access gives. -/
inductive Decoded where
  | row (i : Instr)
  | illegal (r : BusReason)
  deriving DecidableEq, Repr

/-- One row of the opcode table: the selectors `a` with `a & mask = value` (30_encoding.md R82). -/
structure OpcodeRow where
  value : Selector
  mask : Selector
  form : Word → Instr

/-- A row with the mask every row has (30_encoding.md R82). -/
def opcodeRow (value : Selector) (form : Word → Instr) : OpcodeRow := ⟨value, 0x7FFF#15, form⟩

/-- The opcode map (30_encoding.md R83). -/
def opcodeTable : List OpcodeRow :=
  [opcodeRow 0x4000#15 fun _ => .rdMcr,   opcodeRow 0x5000#15 .wrMcr,
   opcodeRow 0x4008#15 fun _ => .rdTcr,   opcodeRow 0x5008#15 .wrTcr,
   opcodeRow 0x400C#15 fun _ => .rdCtar0, opcodeRow 0x500C#15 .wrCtar0,
   opcodeRow 0x4010#15 fun _ => .rdCtar1, opcodeRow 0x5010#15 .wrCtar1,
   opcodeRow 0x402C#15 fun _ => .rdSr,    opcodeRow 0x502C#15 .wrSr,
   opcodeRow 0x4030#15 fun _ => .rdRser,  opcodeRow 0x5030#15 .wrRser,
   opcodeRow 0x5034#15 .wrPushr,          opcodeRow 0x4034#15 fun _ => .rdPushr,
   opcodeRow 0x4038#15 fun _ => .rdPopr,  opcodeRow 0x5038#15 .wrPopr] ++
  [opcodeRow 0x403C#15 fun _ => .rdTxfr0, opcodeRow 0x4040#15 fun _ => .rdTxfr1,
   opcodeRow 0x4044#15 fun _ => .rdTxfr2, opcodeRow 0x4048#15 fun _ => .rdTxfr3,
   opcodeRow 0x503C#15 .wrTxfr0,          opcodeRow 0x5040#15 .wrTxfr1,
   opcodeRow 0x5044#15 .wrTxfr2,          opcodeRow 0x5048#15 .wrTxfr3,
   opcodeRow 0x407C#15 fun _ => .rdRxfr0, opcodeRow 0x4080#15 fun _ => .rdRxfr1,
   opcodeRow 0x4084#15 fun _ => .rdRxfr2, opcodeRow 0x4088#15 fun _ => .rdRxfr3,
   opcodeRow 0x507C#15 .wrRxfr0,          opcodeRow 0x5080#15 .wrRxfr1,
   opcodeRow 0x5084#15 .wrRxfr2,          opcodeRow 0x5088#15 .wrRxfr3]

/-- The row a selector falls on, with the data word of a write (30_encoding.md R82). -/
def decodeSelector (sel : Selector) (data : Word) : Option Instr :=
  (opcodeTable.find? fun r => sel &&& r.mask == r.value).map fun r => r.form data

/-- The field SZ: 00 for 1 byte, 01 for 2, 10 for 4, 11 for any other size (30_encoding.md R80). -/
def sizeCode (size : Nat) : BitVec 2 :=
  match size with
  | 1 => 0b00#2
  | 2 => 0b01#2
  | 4 => 0b10#2
  | _ => 0b11#2

/-- The size a field SZ stands for. The code 11 stands for every other size; 8 is the one this model names in its place
(DESIGN CHOICE, log entry 8; either way the access is BadWidth). -/
def sizeOfCode (sz : BitVec 2) : Nat :=
  match sz.toNat with
  | 0 => 1
  | 1 => 2
  | 2 => 4
  | _ => 8

/-- The access selector of a bus access: SZ, W, OFF (30_encoding.md R80). -/
def BusAccess.selector (a : BusAccess) : Selector :=
  (sizeCode a.size ++ BitVec.ofBool a.write) ++ a.off

/-- The bus access a selector and a data word stand for (30_encoding.md R80). -/
def accessOfSelector (sel : Selector) (data : Word) : BusAccess :=
  { write := sel.getLsbD 12, size := sizeOfCode (sel.extractLsb' 13 2), off := sel.extractLsb' 0 12, data := data }

/-- The bus error of an access that is no row, in the order of 20_memory.md R60: width, alignment, unmapped. -/
def busReason (a : BusAccess) : BusReason :=
  if a.size ≠ 4 then .badWidth a.size
  else if a.off.toNat % 4 ≠ 0 then .misaligned
  else .unmapped

/-- Decoding of a bus access: its row, else its bus error (30_encoding.md R82). It is total. -/
def decodeAccess (a : BusAccess) : Decoded :=
  match decodeSelector a.selector a.data with
  | some i => .row i
  | none => .illegal (busReason a)

/-- What decoding bytes gives: an instruction with the bytes after it, or why there is none. -/
inductive DecodedBytes where
  | row (i : Instr) (rest : List Byte)
  | illegal (r : BusReason)
  | notASelector
  | truncated
  deriving DecidableEq, Repr

/-- `decodeAccess` with the bytes that follow. -/
def decodeWithRest (sel : Selector) (data : Word) (rest : List Byte) : DecodedBytes :=
  match decodeAccess (accessOfSelector sel data) with
  | .row i => .row i rest
  | .illegal r => .illegal r

/-- The 16-bit little-endian value of two bytes. -/
def halfOfBytes (b0 b1 : Byte) : BitVec 16 := b1 ++ b0

/-- The 32-bit little-endian value of four bytes (20_memory.md R64). -/
def wordOfBytes (b0 b1 b2 b3 : Byte) : Word := ((b3 ++ b2) ++ b1) ++ b0

/-- Decoding of any bytes: the selector in two bytes with bit 15 zero, then, for a write, the data word in four, each
little-endian (DESIGN CHOICE, log entry 8: the chip has no such bytes, R80). -/
def decodeBytes : List Byte → DecodedBytes
  | b0 :: b1 :: rest =>
    let half := halfOfBytes b0 b1
    if half.getLsbD 15 then .notASelector
    else
      let sel : Selector := half.extractLsb' 0 15
      if sel.getLsbD 12 then
        match rest with
        | d0 :: d1 :: d2 :: d3 :: rest' => decodeWithRest sel (wordOfBytes d0 d1 d2 d3) rest'
        | _ => .truncated
      else decodeWithRest sel 0#32 rest
  | _ => .truncated

/-- The match value of an instruction's row (30_encoding.md R83, spec/opcode_table.json). -/
def Instr.opcode : Instr → Selector
  | .rdMcr => 0x4000#15
  | .wrMcr _ => 0x5000#15
  | .rdTcr => 0x4008#15
  | .wrTcr _ => 0x5008#15
  | .rdCtar0 => 0x400C#15
  | .wrCtar0 _ => 0x500C#15
  | .rdCtar1 => 0x4010#15
  | .wrCtar1 _ => 0x5010#15
  | .rdSr => 0x402C#15
  | .wrSr _ => 0x502C#15
  | .rdRser => 0x4030#15
  | .wrRser _ => 0x5030#15
  | .wrPushr _ => 0x5034#15
  | .rdPushr => 0x4034#15
  | .rdPopr => 0x4038#15
  | .wrPopr _ => 0x5038#15
  | .rdTxfr0 => 0x403C#15
  | .rdTxfr1 => 0x4040#15
  | .rdTxfr2 => 0x4044#15
  | .rdTxfr3 => 0x4048#15
  | .wrTxfr0 _ => 0x503C#15
  | .wrTxfr1 _ => 0x5040#15
  | .wrTxfr2 _ => 0x5044#15
  | .wrTxfr3 _ => 0x5048#15
  | .rdRxfr0 => 0x407C#15
  | .rdRxfr1 => 0x4080#15
  | .rdRxfr2 => 0x4084#15
  | .rdRxfr3 => 0x4088#15
  | .wrRxfr0 _ => 0x507C#15
  | .wrRxfr1 _ => 0x5080#15
  | .wrRxfr2 _ => 0x5084#15
  | .wrRxfr3 _ => 0x5088#15

/-- The data word of a write; a read has none. -/
def Instr.operand : Instr → Option Word
  | .wrMcr v | .wrTcr v | .wrCtar0 v | .wrCtar1 v | .wrSr v | .wrRser v | .wrPushr v | .wrPopr v => some v
  | .wrTxfr0 v | .wrTxfr1 v | .wrTxfr2 v | .wrTxfr3 v => some v
  | .wrRxfr0 v | .wrRxfr1 v | .wrRxfr2 v | .wrRxfr3 v => some v
  | .rdMcr | .rdTcr | .rdCtar0 | .rdCtar1 | .rdSr | .rdRser | .rdPushr | .rdPopr => none
  | .rdTxfr0 | .rdTxfr1 | .rdTxfr2 | .rdTxfr3 | .rdRxfr0 | .rdRxfr1 | .rdRxfr2 | .rdRxfr3 => none

/-- A selector as two little-endian bytes, bit 15 zero. -/
def bytesOfSelector (sel : Selector) : List Byte :=
  [sel.extractLsb' 0 8, (sel.extractLsb' 8 7).setWidth 8]

/-- A word as four little-endian bytes (20_memory.md R64). -/
def bytesOfWord (v : Word) : List Byte :=
  [v.extractLsb' 0 8, v.extractLsb' 8 8, v.extractLsb' 16 8, v.extractLsb' 24 8]

/-- The bytes of an instruction, in the layout `decodeBytes` reads. -/
def encode (i : Instr) : List Byte :=
  bytesOfSelector i.opcode ++
    match i.operand with
    | some v => bytesOfWord v
    | none => []

/-- The six bytes of a numbered instruction: bits 15:0 of `w` are the selector's two bytes, bits 47:16 the data word, and bits at
`nbits` and above are 0. -/
def tableBytes (nbits w : Nat) : List Byte :=
  let v : BitVec 48 := BitVec.ofNat 48 (w % 2 ^ nbits)
  [v.extractLsb' 0 8, v.extractLsb' 8 8, v.extractLsb' 16 8, v.extractLsb' 24 8, v.extractLsb' 32 8, v.extractLsb' 40 8]

/-- The instruction the decoder reads from a word numbered as spec/opcode_table.json numbers it. -/
def decodeTableWord (nbits w : Nat) : Option Instr :=
  match decodeBytes (tableBytes nbits w) with
  | .row i _ => some i
  | _ => none

/-- The bus access that carries a numbered word: the one its selector and its data word stand for (bit 15 is no part of a
selector). -/
def accessOfTableWord (nbits w : Nat) : BusAccess :=
  let v : BitVec 48 := BitVec.ofNat 48 (w % 2 ^ nbits)
  accessOfSelector (v.extractLsb' 0 15) (v.extractLsb' 16 32)

end Sys2Proof
end

