-- ==== Sys2Proof/Machine/State.lean ====
section
/-! DEFINITION. The state of the block and of its agents as plain data (10_state.md R20), the fault records and refusal reasons
(60_exceptions.md R221, R226), and the state after reset (70_reset_and_hazards.md R240). -/

namespace Sys2Proof.Machine

/-- A fault record `{kind, info}` (60_exceptions.md R220, R221). A fault is appended to `State.faults` by the access that raises
it; the step of a state that holds one answers it. -/
inductive Fault where
  /-- Codes 1 to 5. Raised by the bus checks of an access and by an instruction fetch (20_memory.md R60, R74). Safe: the machine
  stops where the chip goes on with a bus-fault exception of its host. -/
  | busError (addr : BitVec 32) (reason : BusReason)
  /-- Code 6. Raised by WR_PUSHR into a full TX FIFO (44_fifo_ports.md R160). Safe: the machine stops where the chip's behaviour
  is in no source. -/
  | txOverflow (v : Word)
  /-- Code 7. Raised by a write of POPR, TXFR0-3 or RXFR0-3 (44_fifo_ports.md R163). Safe: the machine stops where the chip's
  behaviour is in no source. -/
  | writeToReadOnly (off : Offset) (v : Word)
  deriving DecidableEq, Repr

/-- Why a state has no meaning (60_exceptions.md R226). A refusal is written to `State.refused` by the step that reaches it; the
step of a refused state answers it. -/
inductive Refusal where
  /-- An instruction of the table without a meaning in this model. No arm of `exec` answers it. Safe: the machine stops. -/
  | notModelled (mnemonic : String)
  /-- Code 16. The module runs with MSTR = 0, or WR_PUSHR with MSTR = 0. Safe: the machine stops. -/
  | slaveMode
  /-- Code 17. WR_MCR with DCONF other than 00. Safe: the machine stops. -/
  | reservedDconf
  /-- Code 18. WR_PUSHR with CTAS of 2 or more. Safe: the machine stops. -/
  | ctasReserved
  /-- Code 19. FrameStart selecting a CTAR with FMSZ below 3. Safe: the machine stops. -/
  | frameSizeReserved
  /-- Code 20. WR_MCR changing DIS_TXF or DIS_RXF with entries present. Safe: the machine stops. -/
  | fifoDisableChange
  /-- Code 21. WR_PUSHR or RD_POPR while MDIS = 1, or a flush written together with MDIS = 1. Safe: the machine stops. -/
  | fifoOpWhileDisabled
  /-- Code 22. The driver's set_divider with an argument outside its tables. Safe: the machine stops. -/
  | dividerNotRepresentable
  deriving DecidableEq, Repr

/-- The stored fields of MCR (10_state.md R22). CLR_TXF and CLR_RXF are not stored (R23). -/
structure Mcr where
  mstr : Bool
  contScke : Bool
  dconf : BitVec 2
  frz : Bool
  mtfe : Bool
  pcsse : Bool
  rooe : Bool
  pcsis : BitVec 6
  doze : Bool
  mdis : Bool
  disTxf : Bool
  disRxf : Bool
  smplPt : BitVec 2
  halt : Bool
  deriving DecidableEq, Repr

/-- The fields of RSER (10_state.md R28). -/
structure Rser where
  tcfRe : Bool
  eoqfRe : Bool
  tfufRe : Bool
  tfffRe : Bool
  tfffDirs : Bool
  rfofRe : Bool
  rfdfRe : Bool
  rfdfDirs : Bool
  deriving DecidableEq, Repr

/-- A FIFO (10_state.md R33, R34): a circular buffer of four slots, the slot that leaves next, and the number of valid entries. -/
structure Fifo where
  slot : Vector Word 4
  ptr : Fin 4
  cnt : Nat
  deriving DecidableEq, Repr

/-- The sequencer (10_state.md R36): the frame in flight. The last three fields are meaningful only while `busy`. -/
structure Sequencer where
  busy : Bool
  entry : Word
  ctar : Word
  n : Nat
  deriving DecidableEq, Repr

/-- What FrameOut records (45_transfer_sequencer.md R189): the entry's command and data, the attributes of the snapshot, the delay
fields `ctar[23:18]` and `ctar[15:4]`, and the wire-only fields of MCR. -/
structure FrameOutRec where
  ctas : BitVec 3
  pcs : BitVec 6
  cont : Bool
  eoq : Bool
  n : Nat
  bitsOut : Word
  cpol : Bool
  cpha : Bool
  lsbfe : Bool
  div : Nat
  delayPrescalers : BitVec 6
  delayScalers : BitVec 12
  contScke : Bool
  mtfe : Bool
  pcsse : Bool
  smplPt : BitVec 2
  pcsis : BitVec 6
  deriving DecidableEq, Repr

/-- An event of the wire trace (10_state.md R52, 45_transfer_sequencer.md R189). -/
inductive WireEvent where
  | frameOut (r : FrameOutRec)
  | frameIn (bitsIn : Word)
  deriving DecidableEq, Repr

/-- The host registers that the spec's host programs use (00_scope.md R15): the driver's t and u, and x[1] and x[2]. -/
inductive HostReg where
  | t
  | u
  | x1
  | x2
  deriving DecidableEq, Repr

/-- The values of the host registers. -/
structure HostRegs where
  t : Word
  u : Word
  x1 : Word
  x2 : Word
  deriving DecidableEq, Repr

/-- The condition of a poll on the polled field (30_encoding.md R92): a comparison with a number, or two conditions joined. Joined
comparisons give every condition that a field can have, since a field has finitely many values. -/
inductive PollCond where
  | atMost (k : Nat)
  | greater (k : Nat)
  | equal (k : Nat)
  | differs (k : Nat)
  | both (c d : PollCond)
  | either (c d : PollCond)
  deriving DecidableEq, Repr

/-- A poll: the register read, the field `[lo + len - 1 : lo]` of it, and the condition on the field (30_encoding.md R92). -/
structure PollSpec where
  off : Offset
  lo : Nat
  len : Nat
  cond : PollCond
  deriving DecidableEq, Repr

/-- The driver's error taxonomy (43_status_and_requests.md R153) with the timeout of a bounded wait (46_driver_sequences.md R215,
R216). The hardware produces only `overrun`. -/
inductive DriverError where
  | overrun
  | modeFault
  | crc
  | reserved
  | timeout
  deriving DecidableEq, Repr

/-- What a driver operation returns (46_driver_sequences.md R207 to R210, R215). -/
inductive DriverResult where
  | ok
  | okByte (b : BitVec 8)
  | err (e : DriverError)
  deriving DecidableEq, Repr

/-- One operation of the host's program (30_encoding.md R91, R92; 46_driver_sequences.md). -/
inductive HostOp where
  /-- One bus access; the value a read answers goes to the host register, if one is named. -/
  | access (a : BusAccess) (dst : Option HostReg)
  /-- A 32-bit write of a host register's value. -/
  | writeReg (off : Offset) (src : HostReg)
  /-- `x <- (x & ~clear) | set`, the host's own part of `rmw`. -/
  | merge (x : HostReg) (clear set : Word)
  /-- `poll`: one read into t, then `pollTest`; with a budget, that many reads at most (R215). -/
  | poll (p : PollSpec) (budget : Option Nat)
  /-- The test of a poll on t. -/
  | pollTest (p : PollSpec) (budget : Option Nat)
  /-- The drain of send: one read of SR into t, then `drainTest` (R209). -/
  | drain (budget : Option Nat)
  /-- The test of the drain on t. -/
  | drainTest (budget : Option Nat)
  /-- The RFOF check of send on t (R210). -/
  | overrunTest
  /-- An instruction fetch from the window (20_memory.md R74). -/
  | fetch (off : Offset)
  /-- `clockgate on` and its opposite: the environment action SetClockGate taken by the host (R201 step 1). -/
  | clockGate (on : Bool)
  /-- The pin mux step of start: no access of the block (R201 step 5). -/
  | pinMux (v : PinVariant)
  /-- A set_divider call whose arguments no field value represents (R203). -/
  | refuseDivider
  /-- The end of a driver operation and its result. -/
  | ret (r : DriverResult)
  /-- The end of a driver operation that returns the low byte of t. -/
  | retByte
  deriving DecidableEq, Repr

/-- The host agent (00_scope.md R7): its registers, what it has still to do (oldest first), and its last driver result. -/
structure HostAgent where
  x : HostRegs
  todo : List HostOp
  result : Option DriverResult
  deriving DecidableEq, Repr

/-- Which agent moves in a step (00_scope.md R7, 20_memory.md R71): the host, the sequencer, or the environment. -/
inductive Turn where
  | host
  | sequencer
  | setClockGate (b : Bool)
  | setDebugHalt (b : Bool)
  | setDoze (b : Bool)
  | chipReset
  deriving DecidableEq, Repr

/-- The state: the record of 10_state.md R20 (from `mcr` to `trace`), then the model's own fields: whether the
module was ever brought up (45_transfer_sequencer.md R194), the last read answer, the count of free values drawn, the host agent,
and the turns to come. -/
structure State where
  mcr : Mcr
  tcnt : BitVec 16
  ctar0 : Word
  ctar1 : Word
  tcf : Bool
  eoqf : Bool
  tfuf : Bool
  rfof : Bool
  rser : Rser
  txf : Fifo
  rxf : Fifo
  seq : Sequencer
  pcsAct : BitVec 6
  faults : List Fault
  refused : Option Refusal
  clkEn : Bool
  debugHalt : Bool
  dozeReq : Bool
  trace : List WireEvent
  broughtUp : Bool
  rdata : Word
  draws : Nat
  host : HostAgent
  turns : List Turn
  deriving DecidableEq, Repr

/-- MCR after reset: MDIS = 1 and HALT = 1, every other field 0 (10_state.md R43). -/
def Mcr.reset : Mcr :=
  { mstr := false, contScke := false, dconf := 0#2, frz := false, mtfe := false, pcsse := false, rooe := false,
    pcsis := 0#6, doze := false, mdis := true, disTxf := false, disRxf := false, smplPt := 0#2, halt := true }

/-- RSER after reset (10_state.md R47). -/
def Rser.reset : Rser := ⟨false, false, false, false, false, false, false, false⟩

/-- A FIFO after reset (10_state.md R48). The slots' contents are unspecified and unreadable; 0 is this model's choice
(DESIGN CHOICE, log entry 1). -/
def Fifo.reset : Fifo := ⟨Vector.replicate 4 0#32, 0, 0⟩

/-- The sequencer after reset: idle (10_state.md R48). The other fields mean nothing while idle; 0 is this model's choice
(DESIGN CHOICE, log entry 2). -/
def Sequencer.reset : Sequencer := ⟨false, 0#32, 0#32, 0⟩

/-- The host agent after reset: nothing to do (DESIGN CHOICE, log entries 5 and 6). -/
def HostAgent.reset : HostAgent := ⟨⟨0#32, 0#32, 0#32, 0#32⟩, [], none⟩

/-- The state after chip reset (70_reset_and_hazards.md R240, 10_state.md R43 to R49). -/
def State.reset : State :=
  { mcr := Mcr.reset, tcnt := 0#16, ctar0 := 0x78000000#32, ctar1 := 0x78000000#32,
    tcf := false, eoqf := false, tfuf := false, rfof := false, rser := Rser.reset,
    txf := Fifo.reset, rxf := Fifo.reset, seq := Sequencer.reset, pcsAct := 0#6,
    faults := [], refused := none, clkEn := false, debugHalt := false, dozeReq := false, trace := [],
    broughtUp := false, rdata := 0#32, draws := 0, host := HostAgent.reset, turns := [] }

end Sys2Proof.Machine
end

