-- ==== Sys2Proof/Machine/Bits.lean ====
section
/-! DEFINITION. Bit-field helpers (00_scope.md R14, R15): one bit, a field, a field put in its place, zero extension of the low
bits of a word. -/

namespace Sys2Proof.Machine

/-- `v[i]`. -/
def bit (v : Word) (i : Nat) : Bool := v.getLsbD i

/-- `v[lo + len - 1 : lo]`. -/
def field (v : Word) (lo len : Nat) : BitVec len := v.extractLsb' lo len

/-- `f << lo` as a 32-bit word. -/
def place {len : Nat} (f : BitVec len) (lo : Nat) : Word := f.setWidth 32 <<< lo

/-- One bit at position i. -/
def placeBit (b : Bool) (i : Nat) : Word := place (BitVec.ofBool b) i

/-- `zext_32(v[n-1:0])`: the low n bits, the rest 0. -/
def lowBits (n : Nat) (v : Word) : Word := BitVec.ofNat 32 (v.toNat % 2 ^ n)

end Sys2Proof.Machine
end

