-- ==== Sys2Proof/Machine/Operands.lean ====
section
/-! DEFINITION. Operand assembly (30_encoding.md R84 to R86): the field extractors over a written word, and the packing of the
stored registers for a read. SR is packed in Flags, since its fields are derived. -/

namespace Sys2Proof.Machine

/-! Extractors over a written MCR word (30_encoding.md R86, 10_state.md R22). -/

def mcrDconf (v : Word) : BitVec 2 := field v 28 2
def mcrMdis (v : Word) : Bool := bit v 14
def mcrDisTxf (v : Word) : Bool := bit v 13
def mcrDisRxf (v : Word) : Bool := bit v 12
def mcrClrTxf (v : Word) : Bool := bit v 11
def mcrClrRxf (v : Word) : Bool := bit v 10

/-- The stored fields a write of MCR gives (41_module_control.md R101). Bits 23:22 and 7:1 are ignored, and the CLR bits are
not stored. -/
def unpackMcr (v : Word) : Mcr :=
  { mstr := bit v 31, contScke := bit v 30, dconf := mcrDconf v, frz := bit v 27, mtfe := bit v 26, pcsse := bit v 25,
    rooe := bit v 24, pcsis := field v 16 6, doze := bit v 15, mdis := mcrMdis v, disTxf := mcrDisTxf v,
    disRxf := mcrDisRxf v, smplPt := field v 8 2, halt := bit v 0 }

/-- The word a read of MCR answers (30_encoding.md R85). -/
def packMcr (m : Mcr) : Word :=
  placeBit m.mstr 31 ||| placeBit m.contScke 30 ||| place m.dconf 28 ||| placeBit m.frz 27 ||| placeBit m.mtfe 26 |||
  placeBit m.pcsse 25 ||| placeBit m.rooe 24 ||| place m.pcsis 16 ||| placeBit m.doze 15 ||| placeBit m.mdis 14 |||
  placeBit m.disTxf 13 ||| placeBit m.disRxf 12 ||| place m.smplPt 8 ||| placeBit m.halt 0

/-- The fields a write of RSER gives (43_status_and_requests.md R150). -/
def unpackRser (v : Word) : Rser :=
  { tcfRe := bit v 31, eoqfRe := bit v 28, tfufRe := bit v 27, tfffRe := bit v 25, tfffDirs := bit v 24,
    rfofRe := bit v 19, rfdfRe := bit v 17, rfdfDirs := bit v 16 }

/-- The word a read of RSER answers (30_encoding.md R85). -/
def packRser (r : Rser) : Word :=
  placeBit r.tcfRe 31 ||| placeBit r.eoqfRe 28 ||| placeBit r.tfufRe 27 ||| placeBit r.tfffRe 25 |||
  placeBit r.tfffDirs 24 ||| placeBit r.rfofRe 19 ||| placeBit r.rfdfRe 17 ||| placeBit r.rfdfDirs 16

/-- The word a read of TCR answers (41_module_control.md R108). -/
def packTcr (tcnt : BitVec 16) : Word := place tcnt 16

/-- SPI_TCNT of a written word (41_module_control.md R109). -/
def unpackTcr (v : Word) : BitVec 16 := field v 16 16

/-! Extractors over an attribute word (30_encoding.md R86, 10_state.md R25). -/

def ctarDbr (w : Word) : Bool := bit w 31
def ctarFmsz (w : Word) : BitVec 4 := field w 27 4
def ctarCpol (w : Word) : Bool := bit w 26
def ctarCpha (w : Word) : Bool := bit w 25
def ctarLsbfe (w : Word) : Bool := bit w 24
def ctarPcssck (w : Word) : BitVec 2 := field w 22 2
def ctarPasc (w : Word) : BitVec 2 := field w 20 2
def ctarPdt (w : Word) : BitVec 2 := field w 18 2
def ctarPbr (w : Word) : BitVec 2 := field w 16 2
def ctarCssck (w : Word) : BitVec 4 := field w 12 4
def ctarAsc (w : Word) : BitVec 4 := field w 8 4
def ctarDt (w : Word) : BitVec 4 := field w 4 4
def ctarBr (w : Word) : BitVec 4 := field w 0 4

/-! Extractors over a PUSHR word or TX entry (30_encoding.md R86, 10_state.md R29). -/

def entryCont (e : Word) : Bool := bit e 31
def entryCtas (e : Word) : BitVec 3 := field e 28 3
def entryEoq (e : Word) : Bool := bit e 27
def entryCtcnt (e : Word) : Bool := bit e 26
def entryPcs (e : Word) : BitVec 6 := field e 16 6

/-- The entry a pushed word is stored as: bits 25:22 are stored as 0 (44_fifo_ports.md R160). -/
def storedEntry (v : Word) : Word := v &&& 0xFC3FFFFF#32

end Sys2Proof.Machine
end

