-- ==== Sys2Proof/Machine/Baud.lean ====
section
/-! DEFINITION. The frame size and the baud-rate divider of an attribute word, and the timing formulas that no step of the model
rests on (42_clock_transfer_attributes.md R125 to R134, 70_reset_and_hazards.md R255). -/

namespace Sys2Proof.Machine

/-- The value of a delay or baud prescaler's odd steps, shared by the two tables below. -/
def oddStep (first : Nat) (code : BitVec 2) : Nat :=
  match code.toNat with
  | 0 => first
  | 1 => 3
  | 2 => 5
  | _ => 7

/-- PBR 00, 01, 10, 11 to 2, 3, 5, 7 (R125). -/
def prescalerValue (pbr : BitVec 2) : Nat := oddStep 2 pbr

/-- BR 0 to 15 to 2, 4, 6, 8, 16, ..., 32768 (R126). -/
def scalerValue (br : BitVec 4) : Nat :=
  match br.toNat with
  | 0 => 2
  | 1 => 4
  | 2 => 6
  | k => 2 ^ k

/-- The division ratio of a frame (R130, R134). -/
def divRatio (w : Word) : Nat :=
  prescalerValue (ctarPbr w) * scalerValue (ctarBr w) / (1 + (ctarDbr w).toNat)

/-- The number of bits of a frame, FMSZ + 1 (R127). -/
def frameSize (w : Word) : Nat := (ctarFmsz w).toNat + 1

/-- FMSZ below 3 is reserved (R127). -/
def frameSizeReserved (w : Word) : Bool := (ctarFmsz w).toNat < 3

/-- The serial clock frequency in hertz, the exact quotient F_BUS / div (R131). -/
def sckHertz (w : Word) : Rat := Config.fBus / (divRatio w : Rat)

/-- A delay prescaler field 00, 01, 10, 11 to 1, 3, 5, 7 (R132). -/
def delayPrescaler (code : BitVec 2) : Nat := oddStep 1 code

/-- A delay scaler field s to 2^(s+1) (R132). -/
def delayScaler (code : BitVec 4) : Nat := 2 ^ (code.toNat + 1)

/-- The PCS-to-SCK delay in bus clock periods (R132). -/
def cscDelay (w : Word) : Nat := delayPrescaler (ctarPcssck w) * delayScaler (ctarCssck w)

/-- The after-SCK delay in bus clock periods (R132). -/
def ascDelay (w : Word) : Nat := delayPrescaler (ctarPasc w) * delayScaler (ctarAsc w)

/-- The delay after transfer in bus clock periods (R132). -/
def dtDelay (w : Word) : Nat := delayPrescaler (ctarPdt w) * delayScaler (ctarDt w)

/-- The idle level of the serial clock is high (R128). -/
def sckIdleHigh (w : Word) : Bool := ctarCpol w

/-- Data is captured on the second (trailing) edge (R128). -/
def captureOnSecondEdge (w : Word) : Bool := ctarCpha w

end Sys2Proof.Machine
end

