-- ==== Sys2Proof/Machine/Flags.lean ====
section
/-! DEFINITION. Everything the block computes from its state at each moment: the effective FIFO depths, the run condition, the
derived status flags and SR itself, the request outputs, the chip-select lines, and the modes. -/

namespace Sys2Proof.Machine

/-- The effective depth of the TX FIFO (10_state.md R35). -/
def dtx (m : Mcr) : Nat := if m.disTxf then 1 else Config.txDepth

/-- The effective depth of the RX FIFO (10_state.md R35). -/
def drx (m : Mcr) : Nat := if m.disRxf then 1 else Config.rxDepth

/-- The module is running (45_transfer_sequencer.md R180). -/
def running (s : State) : Bool :=
  s.clkEn && !s.mcr.mdis && !s.mcr.halt && !s.eoqf && !(s.mcr.frz && s.debugHalt) && !(s.mcr.doze && s.dozeReq)

/-- TFFF: the TX FIFO is not full (10_state.md R27, 43_status_and_requests.md R146). -/
def tfff (s : State) : Bool := s.txf.cnt < dtx s.mcr

/-- RFDF: the RX FIFO is not empty (10_state.md R27, 43_status_and_requests.md R147). -/
def rfdf (s : State) : Bool := 0 < s.rxf.cnt

/-- TXRXS (10_state.md R27, 43_status_and_requests.md R148). -/
def txrxs (s : State) : Bool := running s

/-- The four low bits of a counter or pointer (10_state.md R27). -/
def nibble (k : Nat) : BitVec 4 := BitVec.ofNat 4 k

/-- The word a read of SR answers (30_encoding.md R85, 10_state.md R27). -/
def packSr (s : State) : Word :=
  placeBit s.tcf 31 ||| placeBit (txrxs s) 30 ||| placeBit s.eoqf 28 ||| placeBit s.tfuf 27 ||| placeBit (tfff s) 25 |||
  placeBit s.rfof 19 ||| placeBit (rfdf s) 17 ||| place (nibble s.txf.cnt) 12 ||| place (nibble s.txf.ptr.val) 8 |||
  place (nibble s.rxf.cnt) 4 ||| place (nibble s.rxf.ptr.val) 0

/-- The interrupt request output (43_status_and_requests.md R151). -/
def irq (s : State) : Bool :=
  (s.tcf && s.rser.tcfRe) || (s.eoqf && s.rser.eoqfRe) || (s.tfuf && s.rser.tfufRe) || (s.rfof && s.rser.rfofRe) ||
  (tfff s && s.rser.tfffRe && !s.rser.tfffDirs) || (rfdf s && s.rser.rfdfRe && !s.rser.rfdfDirs)

/-- The transmit DMA request output (43_status_and_requests.md R152). -/
def dmaTxReq (s : State) : Bool := tfff s && s.rser.tfffRe && s.rser.tfffDirs

/-- The receive DMA request output (43_status_and_requests.md R152). -/
def dmaRxReq (s : State) : Bool := rfdf s && s.rser.rfdfRe && s.rser.rfdfDirs

/-- The levels of the chip-select lines (10_state.md R37). -/
def pcsLine (s : State) : BitVec 6 := s.mcr.pcsis ^^^ s.pcsAct

/-- The operating modes (60_exceptions.md R233). -/
inductive Mode where
  | disabled
  | stopped
  | runningMaster
  | runningSlave
  deriving DecidableEq, Repr

/-- The operating mode of a state (60_exceptions.md R233). -/
def mode (s : State) : Mode :=
  if s.mcr.mdis then .disabled
  else if !running s then .stopped
  else if s.mcr.mstr then .runningMaster
  else .runningSlave

/-- The document's transfer states and the stopped state the block has beside them (45_transfer_sequencer.md R194). -/
inductive TransferState where
  | uninitialized
  | ready
  | transferring
  | stopped
  deriving DecidableEq, Repr

/-- MCR stands as bring-up leaves it: MSTR = 1, MDIS = 0, HALT = 0 (46_driver_sequences.md R211). -/
def masterUp (m : Mcr) : Bool := m.mstr && !m.mdis && !m.halt

/-- The transfer state (45_transfer_sequencer.md R194). A master that does not run is uninitialized before the first bring-up, and
stopped after it; what counts as bring-up is the model's reading (DEDUCED, log entry 13). MSTR = 0 is uninitialized always, after
the first bring-up too: R194's "before the first bring-up" may qualify both its conditions or the second alone, and the model takes
it to qualify the second (DESIGN CHOICE, log entry 13). -/
def transferState (s : State) : TransferState :=
  if !s.mcr.mstr then .uninitialized
  else if !running s then (if s.broughtUp then .stopped else .uninitialized)
  else if s.txf.cnt = 0 ∧ s.seq.busy = false then .ready
  else .transferring

/-- FrameStart is enabled (45_transfer_sequencer.md R182). -/
def frameStartEnabled (s : State) : Bool :=
  running s && s.mcr.mstr && !s.seq.busy && decide (0 < s.txf.cnt) && s.faults.isEmpty && s.refused.isNone

/-- FrameEnd is enabled (45_transfer_sequencer.md R184). -/
def frameEndEnabled (s : State) : Bool :=
  s.seq.busy && s.clkEn && s.faults.isEmpty && s.refused.isNone

end Sys2Proof.Machine
end

