-- ==== Sys2Proof/Machine/Ops.lean ====
section
/-! DEFINITION. The shared operations: raising a fault and refusing (60_exceptions.md R220, R226), answering a read, drawing a free
value (R228), the circular buffer of a FIFO (10_state.md R33, R34), the flushes, and `check_slave`. -/

namespace Sys2Proof.Machine

/-- Raising a fault (60_exceptions.md R220): the record is appended and nothing else changes. The machine has then stopped: see
`stopped`. This is the block's one way to report an exception; it saves no other state and has no return (R231, R232). -/
def raiseFault (f : Fault) (s : State) : State := { s with faults := s.faults ++ [f] }

/-- Refusing (60_exceptions.md R226, R227). -/
def refuse (r : Refusal) (s : State) : State := { s with refused := some r }

/-- The state carries a mark, so no agent takes a step in it (60_exceptions.md R220, R227). -/
def stopped (s : State) : Bool := !s.faults.isEmpty || s.refused.isSome

/-- The code of a fault (60_exceptions.md R221). -/
def Fault.code : Fault → Nat
  | .busError _ .clockGated => 1
  | .busError _ (.badWidth _) => 2
  | .busError _ .misaligned => 3
  | .busError _ .unmapped => 4
  | .busError _ .fetch => 5
  | .txOverflow _ => 6
  | .writeToReadOnly _ _ => 7

/-- The code of a refusal (60_exceptions.md R226). An instruction without a meaning has no code in the spec; it is given 0. -/
def Refusal.code : Refusal → Nat
  | .slaveMode => 16
  | .reservedDconf => 17
  | .ctasReserved => 18
  | .frameSizeReserved => 19
  | .fifoDisableChange => 20
  | .fifoOpWhileDisabled => 21
  | .dividerNotRepresentable => 22
  | _ => 0

/-- A read access answers v to the host (20_memory.md R60). -/
def answer (v : Word) (s : State) : State := { s with rdata := v }

/-- Drawing a free value (60_exceptions.md R228): the value, and the state in which the next draw is another one. -/
def draw (s : State) : Word × State := (Config.freeWord s.draws, { s with draws := s.draws + 1 })

/-- A read access answers a draw and changes nothing else. -/
def answerDraw (s : State) : State := answer (draw s).1 (draw s).2

/-- The slot `k mod depth` of a FIFO (10_state.md R33). -/
def slotIndex (depth k : Nat) : Fin 4 := Fin.ofNat 4 (k % depth)

/-- The next push or received word goes to `slot[(ptr + cnt) mod depth]` (10_state.md R33, R34). -/
def Fifo.putAt (depth : Nat) (f : Fifo) : Fin 4 := slotIndex depth (f.ptr.val + f.cnt)

/-- One entry more. -/
def Fifo.put (depth : Nat) (w : Word) (f : Fifo) : Fifo :=
  { f with slot := f.slot.set (f.putAt depth).val w, cnt := f.cnt + 1 }

/-- The oldest valid entry, `slot[ptr]`. -/
def Fifo.front (f : Fifo) : Word := f.slot[f.ptr]

/-- The oldest entry leaves: `ptr <- (ptr + 1) mod depth; cnt <- cnt - 1`. -/
def Fifo.drop (depth : Nat) (f : Fifo) : Fifo :=
  { f with ptr := slotIndex depth (f.ptr.val + 1), cnt := f.cnt - 1 }

/-- A flush: `cnt <- 0; ptr <- 0` (41_module_control.md R102, R103). -/
def Fifo.flush (f : Fifo) : Fifo := { f with ptr := 0, cnt := 0 }

/-- A mode change of an empty FIFO resets its pointer (41_module_control.md R101, R104). -/
def Fifo.rewind (f : Fifo) : Fifo := { f with ptr := 0 }

/-- The newest entry is replaced: `slot[(ptr + cnt - 1) mod depth] <- w` (45_transfer_sequencer.md R186). -/
def Fifo.replaceNewest (depth : Nat) (w : Word) (f : Fifo) : Fifo :=
  { f with slot := f.slot.set (slotIndex depth (f.ptr.val + f.cnt - 1)).val w }

/-- Slot j is valid: `j < depth` and `(j - ptr) mod depth < cnt` (10_state.md R33, 44_fifo_ports.md section 3). -/
def Fifo.valid (depth : Nat) (j : Nat) (f : Fifo) : Bool :=
  decide (j < depth) && decide (((j : Int) - (f.ptr.val : Int)) % (depth : Int) < (f.cnt : Int))

/-- The valid entries of a FIFO, oldest first (10_state.md R33). -/
def Fifo.contents (depth : Nat) (f : Fifo) : List Word :=
  (List.range f.cnt).map fun k => f.slot[slotIndex depth (f.ptr.val + k)]

/-- The FIFO has no room (`cnt = depth`). -/
def Fifo.full (depth : Nat) (f : Fifo) : Bool := f.cnt == depth

/-- A debug window of slot j: a valid slot reads its entry and an invalid one reads a draw (44_fifo_ports.md sections 3 and 4). -/
def answerSlot (depth : Nat) (f : Fifo) (j : Fin 4) (s : State) : State :=
  if f.valid depth j.val then answer f.slot[j] s else answerDraw s

/-- `flush_tx()` (41_module_control.md R102). A frame in the shift register is not affected. -/
def flushTx (s : State) : State := { s with txf := s.txf.flush }

/-- `flush_rx()` (41_module_control.md R103). RFOF and a frame in flight are not affected. -/
def flushRx (s : State) : State := { s with rxf := s.rxf.flush }

/-- `check_slave(S)` (60_exceptions.md R226): the module may not run with MSTR = 0. -/
def checkSlave (s : State) : State := if running s && !s.mcr.mstr then refuse .slaveMode s else s

/-- `SetClockGate(b)` (10_state.md R50), with `check_slave` (60_exceptions.md R226). -/
def setClockGate (b : Bool) (s : State) : State := checkSlave { s with clkEn := b }

/-- `SetDebugHalt(b)` (10_state.md R51), with `check_slave`. -/
def setDebugHalt (b : Bool) (s : State) : State := checkSlave { s with debugHalt := b }

/-- `SetDoze(b)` (10_state.md R51), with `check_slave`. -/
def setDoze (b : Bool) (s : State) : State := checkSlave { s with dozeReq := b }

/-- The physical address of an offset of the window, `SPI_BASE + off` (20_memory.md R60). -/
def windowAddr (off : Offset) : BitVec 32 := Config.spiPage ++ off

/-- The offset of a physical address that reaches the window (20_memory.md R60, R61); other addresses do not reach the block. -/
def windowOffset (addr : BitVec 32) : Option Offset :=
  if addr.extractLsb' 12 20 = Config.spiPage then some (addr.extractLsb' 0 12) else none

/-- `MemRead(addr, n)` as a bus access, where it reaches the block (20_memory.md R60). -/
def memRead (addr : BitVec 32) (n : Nat) : Option BusAccess :=
  (windowOffset addr).map fun off => ⟨false, n, off, 0#32⟩

/-- `MemWrite(addr, n, v)` as a bus access, where it reaches the block (20_memory.md R60). -/
def memWrite (addr : BitVec 32) (n : Nat) (v : Word) : Option BusAccess :=
  (windowOffset addr).map fun off => ⟨true, n, off, v⟩

/-- A write to a register that is read-only as a whole (60_exceptions.md R223). -/
def faultReadOnly (off : Offset) (v : Word) (s : State) : State := raiseFault (.writeToReadOnly off v) s

end Sys2Proof.Machine
end

