-- ==== Sys2Proof/Machine/Ctar.lean ====
section
/-! DEFINITION. The accesses of CTAR0 and CTAR1 (42_clock_transfer_attributes.md). A frame takes its own copy when it starts
(R124), so these touch nothing but the register. -/

namespace Sys2Proof.Machine

/-- RD_CTAR0 (R120). -/
def execRdCtar0 (s : State) : Host.Outcome State Fault Refusal := .next (answer s.ctar0 s)

/-- WR_CTAR0 (R121). -/
def execWrCtar0 (v : Word) (s : State) : Host.Outcome State Fault Refusal := .next { s with ctar0 := v }

/-- RD_CTAR1 (R122). -/
def execRdCtar1 (s : State) : Host.Outcome State Fault Refusal := .next (answer s.ctar1 s)

/-- WR_CTAR1 (R123). -/
def execWrCtar1 (v : Word) (s : State) : Host.Outcome State Fault Refusal := .next { s with ctar1 := v }

end Sys2Proof.Machine
end

