-- ==== Sys2Proof/Machine/FifoPorts.lean ====
section
/-! DEFINITION. The FIFO ports PUSHR and POPR and the debug windows TXFR0-3 and RXFR0-3 (44_fifo_ports.md). -/

namespace Sys2Proof.Machine

/-- WR_PUSHR (R160): the checks in their order, then one TX entry more. -/
def execWrPushr (v : Word) (s : State) : Host.Outcome State Fault Refusal :=
  if s.mcr.mstr = false then .next (refuse .slaveMode s)
  else if s.mcr.mdis = true then .next (refuse .fifoOpWhileDisabled s)
  else if 2 ≤ (entryCtas v).toNat then .next (refuse .ctasReserved s)
  else if s.txf.full (dtx s.mcr) then .next (raiseFault (.txOverflow v) s)
  else .next { s with txf := s.txf.put (dtx s.mcr) (storedEntry v) }

/-- RD_PUSHR (R161): the value is a draw. -/
def execRdPushr (s : State) : Host.Outcome State Fault Refusal := .next (answerDraw s)

/-- RD_POPR (R162): the oldest RX entry leaves; with none, the value is a draw and no FIFO changes. -/
def execRdPopr (s : State) : Host.Outcome State Fault Refusal :=
  if s.mcr.mdis = true then .next (refuse .fifoOpWhileDisabled s)
  else if s.rxf.cnt = 0 then .next (answerDraw s)
  else .next { answer s.rxf.front s with rxf := s.rxf.drop (drx s.mcr) }

/-- WR_POPR (R163). -/
def execWrPopr (v : Word) (s : State) : Host.Outcome State Fault Refusal := .next (faultReadOnly Off.popr v s)

/-- RD_TXFR0 (R164). -/
def execRdTxfr0 (s : State) : Host.Outcome State Fault Refusal := .next (answerSlot (dtx s.mcr) s.txf 0 s)

/-- RD_TXFR1 (R165). -/
def execRdTxfr1 (s : State) : Host.Outcome State Fault Refusal := .next (answerSlot (dtx s.mcr) s.txf 1 s)

/-- RD_TXFR2 (R166). -/
def execRdTxfr2 (s : State) : Host.Outcome State Fault Refusal := .next (answerSlot (dtx s.mcr) s.txf 2 s)

/-- RD_TXFR3 (R167). -/
def execRdTxfr3 (s : State) : Host.Outcome State Fault Refusal := .next (answerSlot (dtx s.mcr) s.txf 3 s)

/-- WR_TXFR0 (R168). -/
def execWrTxfr0 (v : Word) (s : State) : Host.Outcome State Fault Refusal := .next (faultReadOnly Off.txfr0 v s)

/-- WR_TXFR1 (R169). -/
def execWrTxfr1 (v : Word) (s : State) : Host.Outcome State Fault Refusal := .next (faultReadOnly Off.txfr1 v s)

/-- WR_TXFR2 (R170). -/
def execWrTxfr2 (v : Word) (s : State) : Host.Outcome State Fault Refusal := .next (faultReadOnly Off.txfr2 v s)

/-- WR_TXFR3 (R171). -/
def execWrTxfr3 (v : Word) (s : State) : Host.Outcome State Fault Refusal := .next (faultReadOnly Off.txfr3 v s)

/-- RD_RXFR0 (R172). -/
def execRdRxfr0 (s : State) : Host.Outcome State Fault Refusal := .next (answerSlot (drx s.mcr) s.rxf 0 s)

/-- RD_RXFR1 (R173). -/
def execRdRxfr1 (s : State) : Host.Outcome State Fault Refusal := .next (answerSlot (drx s.mcr) s.rxf 1 s)

/-- RD_RXFR2 (R174). -/
def execRdRxfr2 (s : State) : Host.Outcome State Fault Refusal := .next (answerSlot (drx s.mcr) s.rxf 2 s)

/-- RD_RXFR3 (R175). -/
def execRdRxfr3 (s : State) : Host.Outcome State Fault Refusal := .next (answerSlot (drx s.mcr) s.rxf 3 s)

/-- WR_RXFR0 (R176). -/
def execWrRxfr0 (v : Word) (s : State) : Host.Outcome State Fault Refusal := .next (faultReadOnly Off.rxfr0 v s)

/-- WR_RXFR1 (R177). -/
def execWrRxfr1 (v : Word) (s : State) : Host.Outcome State Fault Refusal := .next (faultReadOnly Off.rxfr1 v s)

/-- WR_RXFR2 (R178). -/
def execWrRxfr2 (v : Word) (s : State) : Host.Outcome State Fault Refusal := .next (faultReadOnly Off.rxfr2 v s)

/-- WR_RXFR3 (R179). -/
def execWrRxfr3 (v : Word) (s : State) : Host.Outcome State Fault Refusal := .next (faultReadOnly Off.rxfr3 v s)

end Sys2Proof.Machine
end

