-- ==== Sys2Proof/Machine/ModuleControl.lean ====
section
/-! DEFINITION. The accesses of MCR and TCR (41_module_control.md). -/

namespace Sys2Proof.Machine

/-- RD_MCR (R100). -/
def execRdMcr (s : State) : Host.Outcome State Fault Refusal := .next (answer (packMcr s.mcr) s)

/-- A FIFO whose disable bit the write changes rewinds its pointer (R101). -/
def rewindIf (changed : Bool) (f : Fifo) : Fifo := if changed then f.rewind else f

/-- The writes of WR_MCR once its checks have passed (R101): the fields, the pointers of a FIFO whose mode changed, the flushes,
then `check_slave`. The model's own `broughtUp` remembers that MCR once stood as bring-up leaves it (log entry 13). -/
def writeMcr (v : Word) (s : State) : State :=
  let s1 : State :=
    { s with
      mcr := unpackMcr v,
      broughtUp := s.broughtUp || masterUp (unpackMcr v),
      txf := rewindIf (mcrDisTxf v != s.mcr.disTxf) s.txf,
      rxf := rewindIf (mcrDisRxf v != s.mcr.disRxf) s.rxf }
  let s2 := if mcrClrTxf v then flushTx s1 else s1
  let s3 := if mcrClrRxf v then flushRx s2 else s2
  checkSlave s3

/-- Why WR_MCR is refused, the first check that fires (R101, R104, R105, R106; 60_exceptions.md R225). -/
def mcrRefusal (v : Word) (s : State) : Option Refusal :=
  if mcrDconf v ≠ 0#2 then some .reservedDconf
  else if mcrDisTxf v ≠ s.mcr.disTxf ∧ 0 < s.txf.cnt then some .fifoDisableChange
  else if mcrDisRxf v ≠ s.mcr.disRxf ∧ 0 < s.rxf.cnt then some .fifoDisableChange
  else if (mcrClrTxf v || mcrClrRxf v) && mcrMdis v then some .fifoOpWhileDisabled
  else none

/-- WR_MCR (R101). -/
def execWrMcr (v : Word) (s : State) : Host.Outcome State Fault Refusal :=
  match mcrRefusal v s with
  | some r => .next (refuse r s)
  | none => .next (writeMcr v s)

/-- RD_TCR (R108). -/
def execRdTcr (s : State) : Host.Outcome State Fault Refusal := .next (answer (packTcr s.tcnt) s)

/-- WR_TCR (R109). -/
def execWrTcr (v : Word) (s : State) : Host.Outcome State Fault Refusal := .next { s with tcnt := unpackTcr v }

end Sys2Proof.Machine
end

