-- ==== Sys2Proof/Machine/Status.lean ====
section
/-! DEFINITION. The accesses of SR and RSER (43_status_and_requests.md). -/

namespace Sys2Proof.Machine

/-- RD_SR (R140): no side effect (decision D36). -/
def execRdSr (s : State) : Host.Outcome State Fault Refusal := .next (answer (packSr s) s)

/-- The flags after a write-1-to-clear of SR (R141). Every other bit of the word is ignored. -/
def clearFlags (v : Word) (s : State) : State :=
  { s with tcf := s.tcf && !bit v 31, eoqf := s.eoqf && !bit v 28, tfuf := s.tfuf && !bit v 27, rfof := s.rfof && !bit v 19 }

/-- WR_SR (R141): clearing EOQF can make the module run again, so `check_slave` follows. -/
def execWrSr (v : Word) (s : State) : Host.Outcome State Fault Refusal := .next (checkSlave (clearFlags v s))

/-- RD_RSER (R149). -/
def execRdRser (s : State) : Host.Outcome State Fault Refusal := .next (answer (packRser s.rser) s)

/-- WR_RSER (R150). The request outputs are functions of the state, so they change with it. -/
def execWrRser (v : Word) (s : State) : Host.Outcome State Fault Refusal := .next { s with rser := unpackRser v }

end Sys2Proof.Machine
end

