-- ==== Sys2Proof/Machine/Dispatch.lean ====
section
/-! DEFINITION. One arm per instruction (30_encoding.md R83): `exec` calls the meaning of each. The bus checks of 20_memory.md R60
come before it, in Bus. -/

namespace Sys2Proof.Machine

def exec (i : Instr) (s : State) : Host.Outcome State Fault Refusal :=
  match i with
  | .rdMcr => Sys2Proof.Machine.execRdMcr s
  | .wrMcr v => Sys2Proof.Machine.execWrMcr v s
  | .rdTcr => Sys2Proof.Machine.execRdTcr s
  | .wrTcr v => Sys2Proof.Machine.execWrTcr v s
  | .rdCtar0 => Sys2Proof.Machine.execRdCtar0 s
  | .wrCtar0 v => Sys2Proof.Machine.execWrCtar0 v s
  | .rdCtar1 => Sys2Proof.Machine.execRdCtar1 s
  | .wrCtar1 v => Sys2Proof.Machine.execWrCtar1 v s
  | .rdSr => Sys2Proof.Machine.execRdSr s
  | .wrSr v => Sys2Proof.Machine.execWrSr v s
  | .rdRser => Sys2Proof.Machine.execRdRser s
  | .wrRser v => Sys2Proof.Machine.execWrRser v s
  | .wrPushr v => Sys2Proof.Machine.execWrPushr v s
  | .rdPushr => Sys2Proof.Machine.execRdPushr s
  | .rdPopr => Sys2Proof.Machine.execRdPopr s
  | .wrPopr v => Sys2Proof.Machine.execWrPopr v s
  | .rdTxfr0 => Sys2Proof.Machine.execRdTxfr0 s
  | .rdTxfr1 => Sys2Proof.Machine.execRdTxfr1 s
  | .rdTxfr2 => Sys2Proof.Machine.execRdTxfr2 s
  | .rdTxfr3 => Sys2Proof.Machine.execRdTxfr3 s
  | .wrTxfr0 v => Sys2Proof.Machine.execWrTxfr0 v s
  | .wrTxfr1 v => Sys2Proof.Machine.execWrTxfr1 v s
  | .wrTxfr2 v => Sys2Proof.Machine.execWrTxfr2 v s
  | .wrTxfr3 v => Sys2Proof.Machine.execWrTxfr3 v s
  | .rdRxfr0 => Sys2Proof.Machine.execRdRxfr0 s
  | .rdRxfr1 => Sys2Proof.Machine.execRdRxfr1 s
  | .rdRxfr2 => Sys2Proof.Machine.execRdRxfr2 s
  | .rdRxfr3 => Sys2Proof.Machine.execRdRxfr3 s
  | .wrRxfr0 v => Sys2Proof.Machine.execWrRxfr0 v s
  | .wrRxfr1 v => Sys2Proof.Machine.execWrRxfr1 v s
  | .wrRxfr2 v => Sys2Proof.Machine.execWrRxfr2 v s
  | .wrRxfr3 v => Sys2Proof.Machine.execWrRxfr3 v s

end Sys2Proof.Machine
end

