-- ==== Sys2Proof/Machine/Bus.lean ====
section
/-! DEFINITION. How a host access reaches its instruction: the bus checks of 20_memory.md R60 in their order, then the row's rule;
and an instruction fetch (R74). -/

namespace Sys2Proof.Machine

/-- A host access (20_memory.md R60): ClockGated comes first (R65), then the decoder's BadWidth, Misaligned and Unmapped, then
the row's own rule. -/
def busAccess (a : BusAccess) (s : State) : Host.Outcome State Fault Refusal :=
  if s.clkEn = false then .next (raiseFault (.busError (windowAddr a.off) .clockGated) s)
  else
    match decodeAccess a with
    | .illegal r => .next (raiseFault (.busError (windowAddr a.off) r) s)
    | .row i => exec i s

/-- An instruction fetch from the window (20_memory.md R74). With the clock gate off it is still reported as a fetch
(DEDUCED, log entry 14). -/
def busFetch (off : Offset) (s : State) : State := raiseFault (.busError (windowAddr off) .fetch) s

/-- Placing a numbered word as the host's next access, with the host's turn first and the clock gate on. The gate is on already when
the placed state begins: it is no SetClockGate action, so no `check_slave` runs, and a gated module with MSTR = 0 and
MDIS = HALT = 0 then runs without the refusal that R226 gives that action (DESIGN CHOICE, log entry 6). -/
def placeAccess (s : State) (nbits w : Nat) : State :=
  { s with
    clkEn := true,
    turns := .host :: s.turns,
    host := { s.host with todo := .access (accessOfTableWord nbits w) none :: s.host.todo } }

end Sys2Proof.Machine
end

