-- ==== Sys2Proof/Machine/Driver.lean ====
section
/-! DEFINITION. The host agent: what each operation of its program does, and the driver sequences of 46_driver_sequences.md as
host programs in the access syntax (30_encoding.md R91, R92). -/

namespace Sys2Proof.Machine

/-- The value of a host register. -/
def HostRegs.get (x : HostRegs) : HostReg → Word
  | .t => x.t
  | .u => x.u
  | .x1 => x.x1
  | .x2 => x.x2

/-- A host register written. -/
def HostRegs.set (x : HostRegs) (r : HostReg) (v : Word) : HostRegs :=
  match r with
  | .t => { x with t := v }
  | .u => { x with u := v }
  | .x1 => { x with x1 := v }
  | .x2 => { x with x2 := v }

/-- A host register of a state written. -/
def setHostReg (r : HostReg) (v : Word) (s : State) : State := { s with host := { s.host with x := s.host.x.set r v } }

/-- The host's remaining operations replaced. -/
def setTodo (ops : List HostOp) (s : State) : State := { s with host := { s.host with todo := ops } }

/-- A driver operation ends with a result. -/
def setResult (r : DriverResult) (s : State) : State := { s with host := { s.host with result := some r } }

/-- The answer of a read goes to the host register named, unless the access stopped the machine. -/
def deliver (dst : Option HostReg) (s : State) : State :=
  match dst with
  | none => s
  | some r => if stopped s then s else setHostReg r s.rdata s

/-- `deliver` on the state an access leaves. -/
def deliverTo (dst : Option HostReg) (o : Host.Outcome State Fault Refusal) : Host.Outcome State Fault Refusal :=
  match o with
  | .next s => .next (deliver dst s)
  | .fault f => .fault f
  | .refused r => .refused r

/-- A condition on the value of a field (30_encoding.md R92). -/
def PollCond.holds : PollCond → Nat → Bool
  | .atMost k, n => decide (n ≤ k)
  | .greater k, n => decide (k < n)
  | .equal k, n => n == k
  | .differs k, n => n != k
  | .both c d, n => c.holds n && d.holds n
  | .either c d, n => c.holds n || d.holds n

/-- A poll's condition on the field it names (30_encoding.md R92). -/
def PollSpec.holds (p : PollSpec) (t : Word) : Bool := p.cond.holds (field t p.lo p.len).toNat

/-- What is left of the host's program once the driver operation it is in has returned: everything after its `ret`. -/
def afterReturn : List HostOp → List HostOp
  | [] => []
  | .ret _ :: rest => rest
  | .retByte :: rest => rest
  | _ :: rest => afterReturn rest

/-- The driver operation ends early with an error (46_driver_sequences.md R210, R215). -/
def failWith (e : DriverError) (rest : List HostOp) (s : State) : State :=
  setResult (.err e) (setTodo (afterReturn rest) s)

/-- The budget after one read (46_driver_sequences.md R215). -/
def spend (budget : Option Nat) : Option Nat := budget.map (· - 1)

/-- RFOF alone, for `w1c SR` (46_driver_sequences.md R210). -/
def rfofBit : Word := 0x00080000#32

/-- RXCTR of a read SR word. -/
def srRxctr (t : Word) : BitVec 4 := field t 4 4

/-- One operation of the host. `s` is the state without it, and `rest` the operations after it. A drain whose last allowed read
of SR shows RXCTR above 0 still pops that word before it times out: 46_driver_sequences.md R215 bounds the reads of SR and does not
say whether R209's pop after the last one is made (DESIGN CHOICE, log entry 16). -/
def hostOp (op : HostOp) (rest : List HostOp) (s : State) : Host.Outcome State Fault Refusal :=
  match op with
  | .access a dst => deliverTo (if a.write then none else dst) (busAccess a s)
  | .writeReg off src => busAccess (.wr off (s.host.x.get src)) s
  | .merge x clear set => .next (setHostReg x ((s.host.x.get x &&& ~~~clear) ||| set) s)
  | .poll p budget =>
    if budget = some 0 then .next (failWith .timeout rest s)
    else deliverTo (some .t) (busAccess (.rd p.off) (setTodo (.pollTest p (spend budget) :: rest) s))
  | .pollTest p budget => .next (if p.holds s.host.x.t then s else setTodo (.poll p budget :: rest) s)
  | .drain budget =>
    if budget = some 0 then .next (failWith .timeout rest s)
    else deliverTo (some .t) (busAccess (.rd Off.sr) (setTodo (.drainTest (spend budget) :: rest) s))
  | .drainTest budget =>
    .next (if 0 < (srRxctr s.host.x.t).toNat then setTodo (.access (.rd Off.popr) (some .u) :: .drain budget :: rest) s else s)
  | .overrunTest =>
    .next (if bit s.host.x.t 19
      then setTodo (.access (.wr Off.sr rfofBit) none :: .ret (.err .overrun) :: afterReturn rest) s else s)
  | .fetch off => .next (busFetch off s)
  | .clockGate on => .next (setClockGate on s)
  | .pinMux _ => .next s
  | .refuseDivider => .next (refuse .dividerNotRepresentable s)
  | .ret r => .next (setResult r s)
  | .retByte => .next (setResult (.okByte (field s.host.x.t 0 8)) s)

/-- The host's move: its next operation, or nothing where it has none. -/
def hostMove (s : State) : Host.Outcome State Fault Refusal :=
  match s.host.todo with
  | [] => .next s
  | op :: rest => hostOp op rest (setTodo rest s)

/-- `rd REG -> x` (30_encoding.md R91). -/
def rd (off : Offset) (dst : HostReg) : HostOp := .access (.rd off) (some dst)

/-- `wr REG, v` (30_encoding.md R91). -/
def wr (off : Offset) (v : Word) : HostOp := .access (.wr off v) none

/-- `w1c SR, bits` (30_encoding.md R92). -/
def w1c (bits : Word) : HostOp := wr Off.sr bits

/-- `rmw REG, clear_mask, set_bits` (30_encoding.md R92): two accesses, not atomic (20_memory.md R73). -/
def rmw (off : Offset) (clear set : Word) : List HostOp := [rd off .t, .merge .t clear set, .writeReg off .t]

/-- The body of `clear()` (46_driver_sequences.md R204). -/
def clearBody : List HostOp := rmw Off.mcr 0#32 0x803F0C00#32

/-- `clear()` (R204). -/
def driverClear : List HostOp := clearBody ++ [.ret .ok]

/-- `start()` (R201), in the required order (70_reset_and_hazards.md R243). -/
def driverStart : List HostOp :=
  [.clockGate true] ++ rmw Off.mcr 0#32 0x80000000#32 ++ rmw Off.mcr 0x00004001#32 0#32 ++
  rmw Off.ctar0 0x78000000#32 0x38000000#32 ++ [.pinMux Config.pinVariant] ++ clearBody ++ [.ret .ok]

/-- `set_mode(polarity, phase)` (R202). -/
def driverSetMode (pol pha : Bool) : List HostOp :=
  rmw Off.ctar0 0x06000000#32 (placeBit pol 26 ||| placeBit pha 25) ++ [.ret .ok]

/-- The PBR of a prescaler value (R203), the inverse of 42_clock_transfer_attributes.md R125. -/
def pbrOf (p : Nat) : Option (BitVec 2) :=
  if p = 2 then some 0 else if p = 3 then some 1 else if p = 5 then some 2 else if p = 7 then some 3 else none

/-- The BR of a scaler value (R203), the inverse of 42_clock_transfer_attributes.md R126. -/
def brOf (v : Nat) : Option (BitVec 4) :=
  ((List.range 16).map (BitVec.ofNat 4)).find? fun br => scalerValue br == v

/-- `set_divider(prescaler, scaler)` (R203). -/
def driverSetDivider (p v : Nat) : List HostOp :=
  match pbrOf p, brOf v with
  | some pbr, some br => rmw Off.ctar0 0x8003000F#32 (place pbr 16 ||| place br 0) ++ [.ret .ok]
  | _, _ => [.refuseDivider]

/-- `halt()` (R205). -/
def driverHalt : List HostOp := rmw Off.mcr 0#32 0x00000001#32 ++ [.ret .ok]

/-- The resume of R205. -/
def driverResume : List HostOp := rmw Off.mcr 0x00000001#32 0#32 ++ [.ret .ok]

/-- The wait of `write`: TXCTR at most 3 (R206). -/
def txRoom : PollSpec := ⟨Off.sr, 12, 4, .atMost 3⟩

/-- The wait of `read`: RXCTR greater than 0 (R207). -/
def rxReady : PollSpec := ⟨Off.sr, 4, 4, .greater 0⟩

/-- The word `write` pushes (R206): CONT = 1, CTAS = 0, PCS = 000001. -/
def pushWord (b : BitVec 8) : Word := 0x80010000#32 ||| b.setWidth 32

/-- The body of `write(byte)` (R206). -/
def writeBody (polls : Option Nat) (b : BitVec 8) : List HostOp := [wr Off.pushr (pushWord b), .poll txRoom polls]

/-- `write(byte)` (R206). -/
def driverWrite (polls : Option Nat) (b : BitVec 8) : List HostOp := writeBody polls b ++ [.ret .ok]

/-- `read()` (R207). -/
def driverRead (polls : Option Nat) : List HostOp := [.poll rxReady polls, rd Off.popr .t, .retByte]

/-- `read_minimal()` (R208). -/
def driverReadMinimal : List HostOp := [rd Off.popr .t, .retByte]

/-- `send(byte)` (R209), with the fault check of R210 where `check` is true. -/
def driverSend (polls : Option Nat) (check : Bool) (b : BitVec 8) : List HostOp :=
  [.drain polls] ++ writeBody polls b ++ (if check then [rd Off.sr .t, .overrunTest] else []) ++ [.ret .ok]

end Sys2Proof.Machine
end

