-- ==== Sys2Proof/Machine/Sequencer.lean ====
section
/-! DEFINITION. The transfer sequencer (45_transfer_sequencer.md): FrameStart, FrameEnd, the RX overflow, the wire trace, and the
sequencer's step. -/

namespace Sys2Proof.Machine

/-- The attribute register an entry selects (R183). Entries with CTAS of 2 or more are refused at the push, so no run holds one
(44_fifo_ports.md R160). -/
def selectCtar (e : Word) (s : State) : Option Word :=
  match (entryCtas e).toNat with
  | 0 => some s.ctar0
  | 1 => some s.ctar1
  | _ => none

/-- The record of FrameOut(e, w, m) (R189). -/
def frameOutRec (e w : Word) (m : Mcr) : FrameOutRec :=
  { ctas := entryCtas e, pcs := entryPcs e, cont := entryCont e, eoq := entryEoq e,
    n := frameSize w, bitsOut := lowBits (frameSize w) e,
    cpol := ctarCpol w, cpha := ctarCpha w, lsbfe := ctarLsbfe w, div := divRatio w,
    delayPrescalers := field w 18 6, delayScalers := field w 4 12,
    contScke := m.contScke, mtfe := m.mtfe, pcsse := m.pcsse, smplPt := m.smplPt, pcsis := m.pcsis }

/-- The effect of FrameStart on entry e with attribute snapshot w (R183, R188, R189, R196). -/
def launchFrame (e w : Word) (s : State) : State :=
  { s with
    txf := s.txf.drop (dtx s.mcr),
    tcnt := if entryCtcnt e then 0#16 else s.tcnt,
    seq := { busy := true, entry := e, ctar := w, n := frameSize w },
    pcsAct := entryPcs e,
    trace := s.trace ++ [.frameOut (frameOutRec e w s.mcr)] }

/-- FrameStart (R183): the oldest TX entry goes to the shift register. An entry that selects no attribute register is refused as
its push would have been (log entry 12). -/
def frameStart (s : State) : State :=
  match selectCtar s.txf.front s with
  | none => refuse .ctasReserved s
  | some w => if frameSizeReserved w then refuse .frameSizeReserved s else launchFrame s.txf.front w s

/-- The RX FIFO after a frame that found it full (R186). With ROOE = 1 the open parameter ROOE_POLICY decides. -/
def overflowRxf (r : Word) (s : State) : Fifo :=
  if s.mcr.rooe = false then s.rxf
  else
    match Config.rooePolicy with
    | .discard => s.rxf
    | .replaceNewest => s.rxf.replaceNewest (drx s.mcr) r

/-- FrameEnd (R185) with the slave's answer d, of which the low n bits are the received bits (10_state.md R54). -/
def frameEnd (d : Word) (s : State) : State :=
  let r := lowBits s.seq.n d
  let room : Bool := s.rxf.cnt < drx s.mcr
  { s with
    rxf := if room then s.rxf.put (drx s.mcr) r else overflowRxf r s,
    rfof := s.rfof || !room,
    tcf := true,
    tcnt := s.tcnt + 1#16,
    eoqf := s.eoqf || entryEoq s.seq.entry,
    pcsAct := if entryCont s.seq.entry then s.pcsAct else 0#6,
    seq := { s.seq with busy := false },
    trace := s.trace ++ [.frameIn r] }

/-- One move of the sequencer: FrameEnd or FrameStart where one is enabled (at most one is: R182, R184), else nothing. The slave's
answer is a draw. -/
def sequencerMove (s : State) : State :=
  if frameEndEnabled s then frameEnd (draw s).1 (draw s).2
  else if frameStartEnabled s then frameStart s
  else s

/-- The n bits of v in the order in which they stand on the wire (R190): most significant first with LSBFE = 0, least significant
first with LSBFE = 1. -/
def wireOrder (lsbfe : Bool) (n : Nat) (v : Word) : List Bool :=
  if lsbfe then (List.range n).map (bit v) else ((List.range n).map (bit v)).reverse

end Sys2Proof.Machine
end

