-- ==== Sys2Proof/Machine/Agents.lean ====
section
/-! DEFINITION. Whose move a step is (00_scope.md R7, 20_memory.md R71): the turns of the host, the sequencer and the
environment, and the answer of a state that has stopped. -/

namespace Sys2Proof.Machine

/-- Chip reset (70_reset_and_hazards.md R240, R241): the block takes its reset values. What is outside the block stays: the host's
program, the turns to come, the last answer, and the count of draws (DESIGN CHOICE, log entry 11). -/
def chipReset (s : State) : State :=
  { State.reset with rdata := s.rdata, draws := s.draws, host := s.host, turns := s.turns }

/-- The move of the agent whose turn it is. -/
def takeTurn (t : Turn) (s : State) : Host.Outcome State Fault Refusal :=
  match t with
  | .host => hostMove s
  | .sequencer => .next (sequencerMove s)
  | .setClockGate b => .next (setClockGate b s)
  | .setDebugHalt b => .next (setDebugHalt b s)
  | .setDoze b => .next (setDoze b s)
  | .chipReset => .next (chipReset s)

/-- With no turn listed, the sequencer moves where a step of it is enabled, else the host (45_transfer_sequencer.md R192: a step
that stays enabled is eventually taken; log entry 7). -/
def defaultTurn (s : State) : Turn := if frameEndEnabled s || frameStartEnabled s then .sequencer else .host

/-- The step of a state that carries no mark. -/
def move (s : State) : Host.Outcome State Fault Refusal :=
  match s.turns with
  | t :: ts => takeTurn t { s with turns := ts }
  | [] => takeTurn (defaultTurn s) s

/-- A state that carries a mark takes no step of any agent: it answers its fault or its refusal (60_exceptions.md R220, R227). -/
def guarded (s : State) : Host.Outcome State Fault Refusal :=
  match s.faults with
  | f :: _ => .fault f
  | [] =>
    match s.refused with
    | some r => .refused r
    | none => move s

end Sys2Proof.Machine
end

