-- ==== Sys2Proof/Machine/Step.lean ====
section
/-! DEFINITION. The step of the machine, and how the host places an instruction for it. -/

namespace Sys2Proof.Machine

/-- One step: one move of one agent (00_scope.md R7), or the answer of a stopped state. -/
def step (s : State) : Host.Outcome State Fault Refusal := guarded s

/-- The state in which the very next step is the host's access with the numbered word's selector and data. -/
def State.withFetchWord (s : State) (nbits w : Nat) : State := placeAccess s nbits w

end Sys2Proof.Machine
end

