-- ==== Sys2Proof/Safety.lean ====
section
/-! DEFINITION. What claims call safe, and the invariant of the machine: the facts about a state that every step keeps. -/

namespace Sys2Proof.Machine

/-- The state carries no mark (60_exceptions.md R220, R227): the machine has neither faulted nor been refused. -/
abbrev Clean (s : State) : Prop := s.faults = [] ∧ s.refused = none

/-- An outcome is safe when it is a next state without a mark. -/
def SafeOutcome (o : Host.Outcome State Fault Refusal) : Prop := ∃ t, o = .next t ∧ Clean t

/-- A FIFO within its effective depth (10_state.md R33 to R35): its count is at most the depth, and its pointer names a slot of
it (so the pointer of a disabled FIFO is 0). -/
abbrev FifoOk (depth : Nat) (f : Fifo) : Prop := f.cnt ≤ depth ∧ f.ptr.val < depth

/-- A word that a push stores (44_fifo_ports.md R160): it selects CTAR0 or CTAR1, and its bits 25:22 are 0. -/
abbrev EntryOk (e : Word) : Prop := (entryCtas e).toNat < 2 ∧ e &&& 0x03C00000#32 = 0#32

/-- What a wire event does to "a frame is on the wire": a frame goes out only when none is, and comes in only when one is. -/
def traceStep (b : Option Bool) (e : WireEvent) : Option Bool :=
  match b, e with
  | some false, .frameOut _ => some true
  | some true, .frameIn _ => some false
  | _, _ => none

/-- Whether a frame is on the wire after a trace of alternating FrameOut and FrameIn events; none for any other trace. -/
def traceBusy (l : List WireEvent) : Option Bool := l.foldl traceStep (some false)

/-- The number of marks a state carries. -/
def markCount (s : State) : Nat := s.faults.length + (if s.refused.isSome then 1 else 0)

/-- The invariant of the machine. -/
structure Inv (s : State) : Prop where
  /-- The TX FIFO is within its depth (10_state.md R33, R35). -/
  tx : FifoOk (dtx s.mcr) s.txf
  /-- The RX FIFO is within its depth (10_state.md R34, R35). -/
  rx : FifoOk (drx s.mcr) s.rxf
  /-- Only the SPI configuration is ever stored (41_module_control.md R106). -/
  dconf : s.mcr.dconf = 0#2
  /-- Every queued entry is one a push stores (44_fifo_ports.md R160). -/
  queued : ∀ e ∈ s.txf.contents (dtx s.mcr), EntryOk e
  /-- Every received word is a frame of at most 16 bits, zero-extended (45_transfer_sequencer.md R185). -/
  received : ∀ w ∈ s.rxf.contents (drx s.mcr), w.toNat < 2 ^ 16
  /-- The frame in flight is one FrameStart launched (45_transfer_sequencer.md R183), with its chip selects (R188). -/
  inFlight : s.seq.busy = true →
    EntryOk s.seq.entry ∧ frameSizeReserved s.seq.ctar = false ∧ s.seq.n = frameSize s.seq.ctar ∧
      s.pcsAct = entryPcs s.seq.entry
  /-- The module does not run with MSTR = 0, but in a state refused for it (60_exceptions.md R226). -/
  master : running s = true → s.mcr.mstr = false → s.refused = some .slaveMode
  /-- MCR does not stand as bring-up leaves it without that being remembered (45_transfer_sequencer.md R194, log entry 13). -/
  up : masterUp s.mcr = true → s.broughtUp = true
  /-- FrameOut and FrameIn alternate, and a frame is in flight exactly after a FrameOut (45_transfer_sequencer.md R195). -/
  paired : traceBusy s.trace = some s.seq.busy
  /-- A state carries at most one mark (60_exceptions.md R230). -/
  marks : markCount s ≤ 1

end Sys2Proof.Machine
end

