-- ==== Sys2Proof/Certificates/Slice0/Obligations.lean ====
section
/-! DEFINITION. The statements for the provers. Each docstring names the rules it comes from; OBLIGATIONS.json lists them. A frame
is written as an equation of records: `t = { s with f := t.f }` says that t and s agree on every field but f. -/

open Sys2Proof Sys2Proof.Machine

/-! ## Reset, encoding, bus -/

/-- 10_state.md R43 to R49: what each register, FIFO, input and mark holds after reset. That no slot is valid is R48's reason why
their contents are unreadable; nothing here rests on what the slots hold (log entry 1). -/
def Obligations.ResetLeavesTheSpecsValues : Prop :=
  let r := State.reset
  r.mcr = { mstr := false, contScke := false, dconf := 0#2, frz := false, mtfe := false, pcsse := false, rooe := false,
            pcsis := 0#6, doze := false, mdis := true, disTxf := false, disRxf := false, smplPt := 0#2, halt := true } ∧
  exec .rdMcr r = .next { r with rdata := 0x00004001#32 } ∧
  r.tcnt = 0#16 ∧ exec .rdTcr r = .next { r with rdata := 0#32 } ∧
  r.ctar0 = 0x78000000#32 ∧ r.ctar1 = 0x78000000#32 ∧
  (r.tcf = false ∧ r.eoqf = false ∧ r.tfuf = false ∧ r.rfof = false) ∧
  exec .rdSr r = .next { r with rdata := 0x02000000#32 } ∧
  exec .rdRser r = .next { r with rdata := 0#32 } ∧
  (r.txf.ptr = 0 ∧ r.txf.cnt = 0 ∧ r.rxf.ptr = 0 ∧ r.rxf.cnt = 0) ∧
  (∀ j : Fin 4, r.txf.valid (dtx r.mcr) j.val = false ∧ r.rxf.valid (drx r.mcr) j.val = false) ∧
  (r.seq.busy = false ∧ r.pcsAct = 0#6 ∧ r.faults = [] ∧ r.refused = none ∧ r.trace = []) ∧
  (r.clkEn = false ∧ r.debugHalt = false ∧ r.dozeReq = false)

/-- 30_encoding.md R83 and R93: words written out from the opcode map, and the fields R93 reads from its data word. -/
def Obligations.WrittenOutSelectorsDecode : Prop :=
  decodeSelector 0b101000000110100#15 0x80010010#32 = some (.wrPushr 0x80010010#32) ∧
  decodeSelector 0b100000000000000#15 0#32 = some .rdMcr ∧
  decodeSelector 0b101000000001000#15 0xFFFF1234#32 = some (.wrTcr 0xFFFF1234#32) ∧
  decodeSelector 0b100000000010000#15 0#32 = some .rdCtar1 ∧
  decodeSelector 0b100000000101100#15 0#32 = some .rdSr ∧
  decodeSelector 0b100000000111000#15 0#32 = some .rdPopr ∧
  decodeSelector 0b100000001001000#15 0#32 = some .rdTxfr3 ∧
  decodeSelector 0b101000001111100#15 7#32 = some (.wrRxfr0 7#32) ∧
  decodeSelector 0b001000000000000#15 0#32 = none ∧
  (let v : Word := 0x80010010#32
   entryCont v = true ∧ entryCtas v = 0#3 ∧ entryEoq v = false ∧ entryCtcnt v = false ∧ entryPcs v = 1#6 ∧
     v.extractLsb' 0 16 = 0x0010#16)

/-- Decoding the bytes of any instruction, whatever bytes follow, gives that instruction and those bytes. The byte layout is the
model's (log entry 8); the selectors are 30_encoding.md R83's. -/
def Obligations.DecodeOfEncodeIsTheInstruction : Prop :=
  ∀ (i : Instr) (rest : List Byte), decodeBytes (encode i ++ rest) = .row i rest

/-- The other direction: bytes that decode to an instruction are that instruction's encoding, so no second byte sequence stands for
it (30_encoding.md R82: every row's mask is the whole selector). -/
def Obligations.DecodedBytesAreTheEncoding : Prop :=
  ∀ (bs : List Byte) (i : Instr) (rest : List Byte), decodeBytes bs = .row i rest → bs = encode i ++ rest

/-- 30_encoding.md R82: no selector falls on two rows of the opcode table. -/
def Obligations.OpcodeRowsAreDisjoint : Prop :=
  opcodeTable.Pairwise fun r r' => ∀ sel : Selector, ¬(sel &&& r.mask = r.value ∧ sel &&& r'.mask = r'.value)

/-- 30_encoding.md R81: the three sets of illegal encodings, each with the bus error that 20_memory.md R60's order of checks gives
it, and every other access decodes to the row whose access it is. -/
def Obligations.OnlyLegalAccessesSelectARow : Prop :=
  ∀ a : BusAccess,
    (a.size ≠ 4 → decodeAccess a = .illegal (.badWidth a.size)) ∧
    (a.size = 4 → a.off.toNat % 4 ≠ 0 → decodeAccess a = .illegal .misaligned) ∧
    (a.size = 4 → a.off.toNat % 4 = 0 →
      (a.off.toNat = 0x004 ∨ (0x014 ≤ a.off.toNat ∧ a.off.toNat ≤ 0x028) ∨ (0x04C ≤ a.off.toNat ∧ a.off.toNat ≤ 0x078) ∨
        0x08C ≤ a.off.toNat) → decodeAccess a = .illegal .unmapped) ∧
    (a.size = 4 → a.off.toNat % 4 = 0 →
      ¬(a.off.toNat = 0x004 ∨ (0x014 ≤ a.off.toNat ∧ a.off.toNat ≤ 0x028) ∨ (0x04C ≤ a.off.toNat ∧ a.off.toNat ≤ 0x078) ∨
        0x08C ≤ a.off.toNat) →
      ∃ i, decodeAccess a = .row i ∧ i.access = { a with data := if a.write then a.data else 0#32 })

/-- 20_memory.md R60: when it is the host's turn and its next operation is an access that decodes to instruction i, the step is
`exec i` on the state with that turn and that operation taken, with a read's answer delivered to the host register named. -/
def Obligations.StepRunsTheDecodedAccess : Prop :=
  ∀ (s : State) (a : BusAccess) (dst : Option HostReg) (ops : List HostOp) (ts : List Turn) (i : Instr),
    Clean s → s.turns = .host :: ts → s.host.todo = .access a dst :: ops → s.clkEn = true → decodeAccess a = .row i →
    step s = deliverTo (if a.write then none else dst) (exec i { s with turns := ts, host := { s.host with todo := ops } })

/-- 20_memory.md R62, R63, R65, R67: each bus error in the order of R60, recorded with the address, and nothing else changed. -/
def Obligations.BusChecksRecordTheirFault : Prop :=
  ∀ (a : BusAccess) (s : State),
    let reserved := a.off.toNat = 0x004 ∨ (0x014 ≤ a.off.toNat ∧ a.off.toNat ≤ 0x028) ∨
      (0x04C ≤ a.off.toNat ∧ a.off.toNat ≤ 0x078) ∨ 0x08C ≤ a.off.toNat
    let addr := Config.spiBase + a.off.setWidth 32
    (s.clkEn = false → busAccess a s = .next { s with faults := s.faults ++ [.busError addr .clockGated] }) ∧
    (s.clkEn = true → a.size ≠ 4 →
      busAccess a s = .next { s with faults := s.faults ++ [.busError addr (.badWidth a.size)] }) ∧
    (s.clkEn = true → a.size = 4 → a.off.toNat % 4 ≠ 0 →
      busAccess a s = .next { s with faults := s.faults ++ [.busError addr .misaligned] }) ∧
    (s.clkEn = true → a.size = 4 → a.off.toNat % 4 = 0 → reserved →
      busAccess a s = .next { s with faults := s.faults ++ [.busError addr .unmapped] })

/-- 20_memory.md R74: an instruction fetch from any address of the window is a bus error of its own kind. That it is so also while
the clock gate is off is the model's reading (log entry 14). -/
def Obligations.FetchFromTheWindowIsABusError : Prop :=
  ∀ (s : State) (off : Offset) (ops : List HostOp) (ts : List Turn),
    Clean s → s.turns = .host :: ts → s.host.todo = .fetch off :: ops →
    step s = .next { s with turns := ts, host := { s.host with todo := ops },
                            faults := s.faults ++ [.busError (Config.spiBase + off.setWidth 32) .fetch] }

/-- 60_exceptions.md R220, R227: raising a fault appends its record and changes nothing else, a refusal sets its mark and changes
nothing else, and only a state without a mark takes a step of any agent, so no step removes a mark. -/
def Obligations.MarksStopEveryAgent : Prop :=
  (∀ (f : Fault) (s : State), raiseFault f s = { s with faults := s.faults ++ [f] }) ∧
  (∀ (r : Refusal) (s : State), refuse r s = { s with refused := some r }) ∧
  (∀ s t : State, step s = .next t → Clean s)

/-- What the step of a marked state answers is its first fault, or else its refusal (the model's reading, log entry 10). -/
def Obligations.MarkedStatesAnswerTheirMark : Prop :=
  (∀ (s : State) (f : Fault) (fs : List Fault), s.faults = f :: fs → step s = .fault f) ∧
  (∀ (s : State) (r : Refusal), s.faults = [] → s.refused = some r → step s = .refused r)

/-! ## MCR, TCR, CTAR0, CTAR1 -/

/-- 41_module_control.md R100, 10_state.md R23: each stored field stands at its place, the CLR bits and the reserved bits read 0,
and nothing but the answer changes. -/
def Obligations.McrReadShowsEveryField : Prop :=
  ∀ s : State, ∃ t, exec .rdMcr s = .next t ∧ t = { s with rdata := t.rdata } ∧
    t.rdata.getLsbD 31 = s.mcr.mstr ∧ t.rdata.getLsbD 30 = s.mcr.contScke ∧ t.rdata.extractLsb' 28 2 = s.mcr.dconf ∧
    t.rdata.getLsbD 27 = s.mcr.frz ∧ t.rdata.getLsbD 26 = s.mcr.mtfe ∧ t.rdata.getLsbD 25 = s.mcr.pcsse ∧
    t.rdata.getLsbD 24 = s.mcr.rooe ∧ t.rdata.extractLsb' 16 6 = s.mcr.pcsis ∧ t.rdata.getLsbD 15 = s.mcr.doze ∧
    t.rdata.getLsbD 14 = s.mcr.mdis ∧ t.rdata.getLsbD 13 = s.mcr.disTxf ∧ t.rdata.getLsbD 12 = s.mcr.disRxf ∧
    t.rdata.extractLsb' 8 2 = s.mcr.smplPt ∧ t.rdata.getLsbD 0 = s.mcr.halt ∧
    t.rdata &&& 0x00C00CFE#32 = 0#32

/-- 41_module_control.md R101: the three refusals in their order, none of which writes a field, and otherwise the write of every
field, the pointer resets, the flushes and `check_slave`, with everything else unchanged but the model's own `broughtUp`, of which
this says nothing (see `TransferStatesFollowBringUp`). -/
def Obligations.McrWriteChecksThenStoresItsFields : Prop :=
  ∀ (v : Word) (s : State),
    let reserved := v.extractLsb' 28 2 ≠ 0#2
    let txfChange := v.getLsbD 13 ≠ s.mcr.disTxf ∧ 0 < s.txf.cnt
    let rxfChange := v.getLsbD 12 ≠ s.mcr.disRxf ∧ 0 < s.rxf.cnt
    let disabledFlush := (v.getLsbD 11 = true ∨ v.getLsbD 10 = true) ∧ v.getLsbD 14 = true
    (reserved → exec (.wrMcr v) s = .next { s with refused := some .reservedDconf }) ∧
    (¬reserved → (txfChange ∨ rxfChange) → exec (.wrMcr v) s = .next { s with refused := some .fifoDisableChange }) ∧
    (¬reserved → ¬(txfChange ∨ rxfChange) → disabledFlush →
      exec (.wrMcr v) s = .next { s with refused := some .fifoOpWhileDisabled }) ∧
    (¬reserved → ¬(txfChange ∨ rxfChange) → ¬disabledFlush →
      ∃ t, exec (.wrMcr v) s = .next t ∧
        t = { s with mcr := t.mcr, txf := t.txf, rxf := t.rxf, refused := t.refused, broughtUp := t.broughtUp } ∧
        t.mcr = { mstr := v.getLsbD 31, contScke := v.getLsbD 30, dconf := v.extractLsb' 28 2, frz := v.getLsbD 27,
                  mtfe := v.getLsbD 26, pcsse := v.getLsbD 25, rooe := v.getLsbD 24, pcsis := v.extractLsb' 16 6,
                  doze := v.getLsbD 15, mdis := v.getLsbD 14, disTxf := v.getLsbD 13, disRxf := v.getLsbD 12,
                  smplPt := v.extractLsb' 8 2, halt := v.getLsbD 0 } ∧
        t.txf.slot = s.txf.slot ∧ t.rxf.slot = s.rxf.slot ∧
        t.txf.cnt = (if v.getLsbD 11 = true then 0 else s.txf.cnt) ∧
        t.rxf.cnt = (if v.getLsbD 10 = true then 0 else s.rxf.cnt) ∧
        t.txf.ptr = (if v.getLsbD 11 = true ∨ v.getLsbD 13 ≠ s.mcr.disTxf then 0 else s.txf.ptr) ∧
        t.rxf.ptr = (if v.getLsbD 10 = true ∨ v.getLsbD 12 ≠ s.mcr.disRxf then 0 else s.rxf.ptr) ∧
        t.refused = (if running t = true ∧ v.getLsbD 31 = false then some .slaveMode else s.refused))

/-- 41_module_control.md R100, R101, 30_encoding.md R87: a read of MCR after an admitted write answers the written word without the
CLR bits, the reserved bits and DCONF (which was 00). -/
def Obligations.McrReadsBackWhatWasWritten : Prop :=
  ∀ (v : Word) (s : State),
    v.extractLsb' 28 2 = 0#2 → (v.getLsbD 13 = s.mcr.disTxf ∨ s.txf.cnt = 0) → (v.getLsbD 12 = s.mcr.disRxf ∨ s.rxf.cnt = 0) →
    ((v.getLsbD 11 = false ∧ v.getLsbD 10 = false) ∨ v.getLsbD 14 = false) →
    ∃ t u, exec (.wrMcr v) s = .next t ∧ exec .rdMcr t = .next u ∧ u.rdata = v &&& 0xCF3FF301#32

/-- 41_module_control.md R108, R109. -/
def Obligations.TcrReadAndWrite : Prop :=
  ∀ (v : Word) (s : State),
    exec .rdTcr s = .next { s with rdata := s.tcnt.setWidth 32 <<< 16 } ∧
    exec (.wrTcr v) s = .next { s with tcnt := v.extractLsb' 16 16 }

/-- 42_clock_transfer_attributes.md R120 to R123: each attribute register is read and written whole, and no access of one changes
the other, or the frame in flight. -/
def Obligations.CtarReadAndWrite : Prop :=
  ∀ (v : Word) (s : State),
    exec .rdCtar0 s = .next { s with rdata := s.ctar0 } ∧ exec (.wrCtar0 v) s = .next { s with ctar0 := v } ∧
    exec .rdCtar1 s = .next { s with rdata := s.ctar1 } ∧ exec (.wrCtar1 v) s = .next { s with ctar1 := v }

/-- 42_clock_transfer_attributes.md R125, R126, R130: the two tables, the exact division ratio, and its bounds. -/
def Obligations.DivisionRatioIsExactAndBounded : Prop :=
  (List.range 4).map (fun k => prescalerValue (BitVec.ofNat 2 k)) = [2, 3, 5, 7] ∧
  (List.range 16).map (fun k => scalerValue (BitVec.ofNat 4 k)) =
    [2, 4, 6, 8, 16, 32, 64, 128, 256, 512, 1024, 2048, 4096, 8192, 16384, 32768] ∧
  ∀ w : Word,
    divRatio w * (1 + (w.getLsbD 31).toNat) = prescalerValue (w.extractLsb' 16 2) * scalerValue (w.extractLsb' 0 4) ∧
    2 ≤ divRatio w ∧ divRatio w ≤ 229376

/-- 42_clock_transfer_attributes.md R131: the serial clock frequency is the exact quotient of the bus clock frequency by the ratio,
and positive. That F_BUS is a fraction of whole numbers is the model's choice (log entry 9). -/
def Obligations.SerialClockIsTheExactQuotient : Prop :=
  ∀ w : Word, sckHertz w * (divRatio w : Rat) = Config.fBus ∧ 0 < sckHertz w ∧ sckHertz w ≤ Config.fBus / 2

/-! ## SR, RSER, the requests -/

/-- 43_status_and_requests.md R140, 10_state.md R27: the stored flags, the derived fields computed at the read, reserved bits 0,
and nothing but the answer changes. -/
def Obligations.SrReadShowsFlagsAndCounts : Prop :=
  ∀ s : State, ∃ t, exec .rdSr s = .next t ∧ t = { s with rdata := t.rdata } ∧
    t.rdata.getLsbD 31 = s.tcf ∧ t.rdata.getLsbD 28 = s.eoqf ∧ t.rdata.getLsbD 27 = s.tfuf ∧ t.rdata.getLsbD 19 = s.rfof ∧
    t.rdata.getLsbD 30 = running s ∧
    t.rdata.getLsbD 25 = decide (s.txf.cnt < if s.mcr.disTxf then 1 else 4) ∧
    t.rdata.getLsbD 17 = decide (0 < s.rxf.cnt) ∧
    t.rdata.extractLsb' 12 4 = BitVec.ofNat 4 s.txf.cnt ∧ t.rdata.extractLsb' 8 4 = BitVec.ofNat 4 s.txf.ptr.val ∧
    t.rdata.extractLsb' 4 4 = BitVec.ofNat 4 s.rxf.cnt ∧ t.rdata.extractLsb' 0 4 = BitVec.ofNat 4 s.rxf.ptr.val ∧
    t.rdata &&& 0x25F50000#32 = 0#32

/-- 45_transfer_sequencer.md R180: when the module is running. -/
def Obligations.RunConditionOfTheModule : Prop :=
  ∀ s : State, running s = true ↔
    (s.clkEn = true ∧ s.mcr.mdis = false ∧ s.mcr.halt = false ∧ s.eoqf = false ∧
      ¬(s.mcr.frz = true ∧ s.debugHalt = true) ∧ ¬(s.mcr.doze = true ∧ s.dozeReq = true))

/-- 43_status_and_requests.md R141: each flag is cleared exactly where the word has a 1, `check_slave` follows, and nothing else
changes. -/
def Obligations.SrWriteClearsTheFlagsWrittenAsOne : Prop :=
  ∀ (v : Word) (s : State), ∃ t, exec (.wrSr v) s = .next t ∧
    t = { s with tcf := t.tcf, eoqf := t.eoqf, tfuf := t.tfuf, rfof := t.rfof, refused := t.refused } ∧
    t.tcf = (if v.getLsbD 31 = true then false else s.tcf) ∧
    t.eoqf = (if v.getLsbD 28 = true then false else s.eoqf) ∧
    t.tfuf = (if v.getLsbD 27 = true then false else s.tfuf) ∧
    t.rfof = (if v.getLsbD 19 = true then false else s.rfof) ∧
    t.refused = (if running t = true ∧ s.mcr.mstr = false then some .slaveMode else s.refused)

/-- 70_reset_and_hazards.md R247: writing back the word a read of SR answered clears every flag. -/
def Obligations.SrWriteBackClearsEveryFlag : Prop :=
  ∀ s : State, ∃ t u, exec .rdSr s = .next t ∧ exec (.wrSr t.rdata) t = .next u ∧
    u.tcf = false ∧ u.eoqf = false ∧ u.tfuf = false ∧ u.rfof = false

/-- 43_status_and_requests.md R149, R150: each field of RSER at its place, reserved bits 0 when read and ignored when written, and
nothing else changed. -/
def Obligations.RserReadAndWrite : Prop :=
  (∀ s : State, ∃ t, exec .rdRser s = .next t ∧ t = { s with rdata := t.rdata } ∧
    t.rdata.getLsbD 31 = s.rser.tcfRe ∧ t.rdata.getLsbD 28 = s.rser.eoqfRe ∧ t.rdata.getLsbD 27 = s.rser.tfufRe ∧
    t.rdata.getLsbD 25 = s.rser.tfffRe ∧ t.rdata.getLsbD 24 = s.rser.tfffDirs ∧ t.rdata.getLsbD 19 = s.rser.rfofRe ∧
    t.rdata.getLsbD 17 = s.rser.rfdfRe ∧ t.rdata.getLsbD 16 = s.rser.rfdfDirs ∧ t.rdata &&& 0x64F4FFFF#32 = 0#32) ∧
  (∀ (v : Word) (s : State), exec (.wrRser v) s =
    .next { s with rser := { tcfRe := v.getLsbD 31, eoqfRe := v.getLsbD 28, tfufRe := v.getLsbD 27, tfffRe := v.getLsbD 25,
                             tfffDirs := v.getLsbD 24, rfofRe := v.getLsbD 19, rfdfRe := v.getLsbD 17,
                             rfdfDirs := v.getLsbD 16 } })

/-- 43_status_and_requests.md R151, R152: when each request output is up. -/
def Obligations.RequestOutputsFollowFlagsAndEnables : Prop :=
  ∀ s : State,
    let tfff := s.txf.cnt < if s.mcr.disTxf then 1 else 4
    let rfdf := 0 < s.rxf.cnt
    (irq s = true ↔
      (s.tcf = true ∧ s.rser.tcfRe = true) ∨ (s.eoqf = true ∧ s.rser.eoqfRe = true) ∨
      (s.tfuf = true ∧ s.rser.tfufRe = true) ∨ (s.rfof = true ∧ s.rser.rfofRe = true) ∨
      (tfff ∧ s.rser.tfffRe = true ∧ s.rser.tfffDirs = false) ∨ (rfdf ∧ s.rser.rfdfRe = true ∧ s.rser.rfdfDirs = false)) ∧
    (dmaTxReq s = true ↔ tfff ∧ s.rser.tfffRe = true ∧ s.rser.tfffDirs = true) ∧
    (dmaRxReq s = true ↔ rfdf ∧ s.rser.rfdfRe = true ∧ s.rser.rfdfDirs = true)

/-! ## The FIFO ports and windows -/

/-- 44_fifo_ports.md R160: the checks of a push in their order, none of which changes a FIFO, and otherwise the entry in the slot
after the newest, with bits 25:22 stored as 0, and everything else unchanged. -/
def Obligations.PushChecksThenStoresTheEntry : Prop :=
  ∀ (v : Word) (s : State),
    let depth := if s.mcr.disTxf then 1 else 4
    (s.mcr.mstr = false → exec (.wrPushr v) s = .next { s with refused := some .slaveMode }) ∧
    (s.mcr.mstr = true → s.mcr.mdis = true → exec (.wrPushr v) s = .next { s with refused := some .fifoOpWhileDisabled }) ∧
    (s.mcr.mstr = true → s.mcr.mdis = false → 2 ≤ (v.extractLsb' 28 3).toNat →
      exec (.wrPushr v) s = .next { s with refused := some .ctasReserved }) ∧
    (s.mcr.mstr = true → s.mcr.mdis = false → (v.extractLsb' 28 3).toNat < 2 → s.txf.cnt = depth →
      exec (.wrPushr v) s = .next { s with faults := s.faults ++ [.txOverflow v] }) ∧
    (s.mcr.mstr = true → s.mcr.mdis = false → (v.extractLsb' 28 3).toNat < 2 → s.txf.cnt ≠ depth →
      ∃ t, exec (.wrPushr v) s = .next t ∧ t = { s with txf := t.txf } ∧
        t.txf.ptr = s.txf.ptr ∧ t.txf.cnt = s.txf.cnt + 1 ∧
        ∀ j : Fin 4, t.txf.slot[j] =
          if j.val = (s.txf.ptr.val + s.txf.cnt) % depth then v &&& 0xFC3FFFFF#32 else s.txf.slot[j])

/-- 44_fifo_ports.md R162: a pop of the oldest entry, of an empty FIFO (the answer is a free value and no FIFO changes), and of a
disabled module; everything else is unchanged. -/
def Obligations.PopAnswersTheOldestEntry : Prop :=
  ∀ s : State,
    let depth := if s.mcr.disRxf then 1 else 4
    (s.mcr.mdis = true → exec .rdPopr s = .next { s with refused := some .fifoOpWhileDisabled }) ∧
    (s.mcr.mdis = false → s.rxf.cnt = 0 →
      exec .rdPopr s = .next { s with rdata := Config.freeWord s.draws, draws := s.draws + 1 }) ∧
    (s.mcr.mdis = false → 0 < s.rxf.cnt →
      ∃ t, exec .rdPopr s = .next t ∧ t = { s with rdata := t.rdata, rxf := t.rxf } ∧
        t.rdata = s.rxf.slot[s.rxf.ptr] ∧ t.rxf.slot = s.rxf.slot ∧
        t.rxf.ptr.val = (s.rxf.ptr.val + 1) % depth ∧ t.rxf.cnt = s.rxf.cnt - 1)

/-- 44_fifo_ports.md R161: the answer is a free value, and the block does not change. -/
def Obligations.PushrReadAnswersAFreeValue : Prop :=
  ∀ s : State, exec .rdPushr s = .next { s with rdata := Config.freeWord s.draws, draws := s.draws + 1 }

/-- 44_fifo_ports.md R164 to R167: a window of the TX FIFO answers its slot's entry where the slot is valid, else a free value, and
changes nothing. -/
def Obligations.TxWindowsAnswerTheirSlots : Prop :=
  ∀ (s : State) (j : Fin 4),
    let i : Instr := match j with | 0 => .rdTxfr0 | 1 => .rdTxfr1 | 2 => .rdTxfr2 | 3 => .rdTxfr3
    let depth : Nat := if s.mcr.disTxf then 1 else 4
    let valid := j.val < depth ∧ ((j.val : Int) - s.txf.ptr.val) % depth < s.txf.cnt
    (valid → exec i s = .next { s with rdata := s.txf.slot[j] }) ∧
    (¬valid → exec i s = .next { s with rdata := Config.freeWord s.draws, draws := s.draws + 1 })

/-- 44_fifo_ports.md R172 to R175: the same of the RX FIFO's windows; none of them pops. -/
def Obligations.RxWindowsAnswerTheirSlots : Prop :=
  ∀ (s : State) (j : Fin 4),
    let i : Instr := match j with | 0 => .rdRxfr0 | 1 => .rdRxfr1 | 2 => .rdRxfr2 | 3 => .rdRxfr3
    let depth : Nat := if s.mcr.disRxf then 1 else 4
    let valid := j.val < depth ∧ ((j.val : Int) - s.rxf.ptr.val) % depth < s.rxf.cnt
    (valid → exec i s = .next { s with rdata := s.rxf.slot[j] }) ∧
    (¬valid → exec i s = .next { s with rdata := Config.freeWord s.draws, draws := s.draws + 1 })

/-- 44_fifo_ports.md R163, R168 to R171, R176 to R179: a write of a read-only register records its fault, with the offset and the
word, and nothing else changes. -/
def Obligations.WritesOfReadOnlyRegistersFault : Prop :=
  ∀ (v : Word) (s : State),
    let marked (off : Offset) : State := { s with faults := s.faults ++ [.writeToReadOnly off v] }
    exec (.wrPopr v) s = .next (marked 0x038#12) ∧
    exec (.wrTxfr0 v) s = .next (marked 0x03C#12) ∧ exec (.wrTxfr1 v) s = .next (marked 0x040#12) ∧
    exec (.wrTxfr2 v) s = .next (marked 0x044#12) ∧ exec (.wrTxfr3 v) s = .next (marked 0x048#12) ∧
    exec (.wrRxfr0 v) s = .next (marked 0x07C#12) ∧ exec (.wrRxfr1 v) s = .next (marked 0x080#12) ∧
    exec (.wrRxfr2 v) s = .next (marked 0x084#12) ∧ exec (.wrRxfr3 v) s = .next (marked 0x088#12)

/-- 10_state.md R33, R34: with both FIFOs within their depths, the circular buffers are queues: an admitted push appends the stored
entry to the TX queue, and a pop answers the head of the RX queue and leaves its tail. -/
def Obligations.FifoPortsWorkOnQueues : Prop :=
  ∀ (v : Word) (s : State), FifoOk (dtx s.mcr) s.txf → FifoOk (drx s.mcr) s.rxf → s.mcr.mdis = false →
    (s.mcr.mstr = true → (v.extractLsb' 28 3).toNat < 2 → s.txf.cnt < dtx s.mcr →
      ∃ t, exec (.wrPushr v) s = .next t ∧
        t.txf.contents (dtx t.mcr) = s.txf.contents (dtx s.mcr) ++ [v &&& 0xFC3FFFFF#32] ∧ FifoOk (dtx t.mcr) t.txf) ∧
    (0 < s.rxf.cnt →
      ∃ t, exec .rdPopr s = .next t ∧
        s.rxf.contents (drx s.mcr) = t.rdata :: t.rxf.contents (drx t.mcr) ∧ FifoOk (drx t.mcr) t.rxf)

/-- 10_state.md R33: the k-th entry of the TX queue stands in slot `(ptr + k) mod depth`, that slot is valid, and its window shows
that entry; the same of the RX FIFO. -/
def Obligations.WindowsShowTheQueue : Prop :=
  ∀ (s : State) (k : Nat) (j : Fin 4),
    let txWindow : Instr := match j with | 0 => .rdTxfr0 | 1 => .rdTxfr1 | 2 => .rdTxfr2 | 3 => .rdTxfr3
    let rxWindow : Instr := match j with | 0 => .rdRxfr0 | 1 => .rdRxfr1 | 2 => .rdRxfr2 | 3 => .rdRxfr3
    (FifoOk (dtx s.mcr) s.txf → k < s.txf.cnt → j.val = (s.txf.ptr.val + k) % dtx s.mcr →
      ∃ t, exec txWindow s = .next t ∧ (s.txf.contents (dtx s.mcr))[k]? = some t.rdata) ∧
    (FifoOk (drx s.mcr) s.rxf → k < s.rxf.cnt → j.val = (s.rxf.ptr.val + k) % drx s.mcr →
      ∃ t, exec rxWindow s = .next t ∧ (s.rxf.contents (drx s.mcr))[k]? = some t.rdata)

/-! ## What no access does -/

/-- 20_memory.md R68: every read but POPR's leaves the block as it was. Only the answer and the count of free values may differ. -/
def Obligations.ReadsHaveNoSideEffect : Prop :=
  ∀ (i : Instr) (s : State), i.access.write = false → i ≠ .rdPopr →
    ∃ t, exec i s = .next t ∧ t = { s with rdata := t.rdata, draws := t.draws }

/-- 10_state.md R41: no access sets a status flag, and only a write of SR clears one. -/
def Obligations.NoAccessSetsAFlag : Prop :=
  ∀ (i : Instr) (s t : State), exec i s = .next t →
    (t.tcf = true → s.tcf = true) ∧ (t.eoqf = true → s.eoqf = true) ∧ (t.tfuf = true → s.tfuf = true) ∧
    (t.rfof = true → s.rfof = true) ∧
    ((∀ v, i ≠ .wrSr v) → t.tcf = s.tcf ∧ t.eoqf = s.eoqf ∧ t.tfuf = s.tfuf ∧ t.rfof = s.rfof)

/-- 20_memory.md R68: each register is changed only by its own write, and each FIFO only by its port or by a write of MCR. -/
def Obligations.RegistersChangeOnlyByTheirOwnWrite : Prop :=
  ∀ (i : Instr) (s t : State), exec i s = .next t →
    ((∀ v, i ≠ .wrMcr v) → t.mcr = s.mcr) ∧ ((∀ v, i ≠ .wrTcr v) → t.tcnt = s.tcnt) ∧
    ((∀ v, i ≠ .wrCtar0 v) → t.ctar0 = s.ctar0) ∧ ((∀ v, i ≠ .wrCtar1 v) → t.ctar1 = s.ctar1) ∧
    ((∀ v, i ≠ .wrRser v) → t.rser = s.rser) ∧
    ((∀ v, i ≠ .wrMcr v) → (∀ v, i ≠ .wrPushr v) → t.txf = s.txf) ∧
    ((∀ v, i ≠ .wrMcr v) → i ≠ .rdPopr → t.rxf = s.rxf)

/-- 20_memory.md R69, 45_transfer_sequencer.md R184: no access touches the frame in flight, the chip selects, the wire trace, the
inputs, the host or the turns to come; a write answers nothing; and no access removes a fault record. -/
def Obligations.AccessesLeaveTheFrameInFlightAlone : Prop :=
  ∀ (i : Instr) (s t : State), exec i s = .next t →
    t.seq = s.seq ∧ t.pcsAct = s.pcsAct ∧ t.trace = s.trace ∧ t.clkEn = s.clkEn ∧ t.debugHalt = s.debugHalt ∧
    t.dozeReq = s.dozeReq ∧ t.host = s.host ∧ t.turns = s.turns ∧ s.faults <+: t.faults ∧
    (i.access.write = true → t.rdata = s.rdata ∧ t.draws = s.draws)

/-! ## The sequencer -/

/-- 45_transfer_sequencer.md R183, R189: FrameStart on the sequencer's turn, for an entry that selects CTAR0 or CTAR1: refused for a
reserved frame size, else the entry and a copy of its attribute register go to the shift register, and everything not named is
unchanged. -/
def Obligations.FrameStartTakesTheOldestEntry : Prop :=
  ∀ (s : State) (ts : List Turn) (e w : Word),
    Clean s → s.turns = .sequencer :: ts → running s = true → s.mcr.mstr = true → s.seq.busy = false → 0 < s.txf.cnt →
    e = s.txf.slot[s.txf.ptr] →
    ((e.extractLsb' 28 3 = 0#3 ∧ w = s.ctar0) ∨ (e.extractLsb' 28 3 = 1#3 ∧ w = s.ctar1)) →
    let depth := if s.mcr.disTxf then 1 else 4
    let n := (w.extractLsb' 27 4).toNat + 1
    (n < 4 → step s = .next { s with turns := ts, refused := some .frameSizeReserved }) ∧
    (4 ≤ n → ∃ t, step s = .next t ∧
      t = { s with turns := ts, txf := t.txf, tcnt := t.tcnt, seq := t.seq, pcsAct := t.pcsAct, trace := t.trace } ∧
      t.txf.slot = s.txf.slot ∧ t.txf.ptr.val = (s.txf.ptr.val + 1) % depth ∧ t.txf.cnt = s.txf.cnt - 1 ∧
      t.tcnt = (if e.getLsbD 26 = true then 0#16 else s.tcnt) ∧
      t.seq = { busy := true, entry := e, ctar := w, n := n } ∧
      t.pcsAct = e.extractLsb' 16 6 ∧
      t.trace = s.trace ++ [.frameOut
        { ctas := e.extractLsb' 28 3, pcs := e.extractLsb' 16 6, cont := e.getLsbD 31, eoq := e.getLsbD 27, n := n,
          bitsOut := BitVec.ofNat 32 (e.toNat % 2 ^ n), cpol := w.getLsbD 26, cpha := w.getLsbD 25, lsbfe := w.getLsbD 24,
          div := divRatio w, delayPrescalers := w.extractLsb' 18 6, delayScalers := w.extractLsb' 4 12,
          contScke := s.mcr.contScke, mtfe := s.mcr.mtfe, pcsse := s.mcr.pcsse, smplPt := s.mcr.smplPt,
          pcsis := s.mcr.pcsis }])

/-- 45_transfer_sequencer.md R185, R186: FrameEnd on the sequencer's turn. The slave's answer is a free value, of which the low n
bits are received; with room they go to the RX FIFO, without room RFOF is set and ROOE with the open parameter decides. Everything
not named is unchanged. -/
def Obligations.FrameEndDeliversTheReceivedWord : Prop :=
  ∀ (s : State) (ts : List Turn),
    Clean s → s.turns = .sequencer :: ts → s.seq.busy = true → s.clkEn = true →
    let depth := if s.mcr.disRxf then 1 else 4
    let e := s.seq.entry
    let r : Word := BitVec.ofNat 32 ((Config.freeWord s.draws).toNat % 2 ^ s.seq.n)
    ∃ t, step s = .next t ∧
      t = { s with turns := ts, draws := s.draws + 1, rxf := t.rxf, rfof := t.rfof, tcf := true, tcnt := s.tcnt + 1#16,
                   eoqf := t.eoqf, pcsAct := t.pcsAct, seq := { s.seq with busy := false },
                   trace := s.trace ++ [.frameIn r] } ∧
      t.eoqf = (if e.getLsbD 27 = true then true else s.eoqf) ∧
      t.pcsAct = (if e.getLsbD 31 = true then s.pcsAct else 0#6) ∧
      t.rxf.ptr = s.rxf.ptr ∧
      (s.rxf.cnt < depth → t.rfof = s.rfof ∧ t.rxf.cnt = s.rxf.cnt + 1 ∧
        ∀ j : Fin 4, t.rxf.slot[j] = if j.val = (s.rxf.ptr.val + s.rxf.cnt) % depth then r else s.rxf.slot[j]) ∧
      (depth ≤ s.rxf.cnt → t.rfof = true ∧ t.rxf.cnt = s.rxf.cnt ∧
        ∀ j : Fin 4, t.rxf.slot[j] =
          if s.mcr.rooe = true ∧ Config.rooePolicy = .replaceNewest ∧
              j.val = (s.rxf.ptr.val + s.rxf.cnt - 1) % depth then r else s.rxf.slot[j])

/-- 45_transfer_sequencer.md R182, R184: on the sequencer's turn with neither step enabled, nothing happens but that the turn is
taken. -/
def Obligations.SequencerWaitsUntilAStepIsEnabled : Prop :=
  ∀ (s : State) (ts : List Turn), Clean s → s.turns = .sequencer :: ts →
    ¬(s.seq.busy = true ∧ s.clkEn = true) →
    ¬(running s = true ∧ s.mcr.mstr = true ∧ s.seq.busy = false ∧ 0 < s.txf.cnt) →
    step s = .next { s with turns := ts }

/-- 45_transfer_sequencer.md R184: whatever one access did after FrameStart, the sequencer's next turn ends the frame, and delivers
as many bits as it had when it started; only a mark or a gated clock holds it. -/
def Obligations.FrameInFlightFinishesAfterAnyAccess : Prop :=
  ∀ (i : Instr) (s t : State) (ts : List Turn),
    exec i s = .next t → Clean t → t.turns = .sequencer :: ts → s.seq.busy = true → s.clkEn = true →
    ∃ u, step t = .next u ∧ u.seq.busy = false ∧ u.tcf = true ∧ u.tcnt = t.tcnt + 1#16 ∧
      u.trace = s.trace ++ [.frameIn (BitVec.ofNat 32 ((Config.freeWord t.draws).toNat % 2 ^ s.seq.n))]

/-- 20_memory.md R73, 10_state.md R41: a sequencer step writes no configuration register and no input, clears no flag, and never
sets TFUF. -/
def Obligations.SequencerLeavesTheConfigurationAlone : Prop :=
  ∀ s : State,
    let t := sequencerMove s
    t.mcr = s.mcr ∧ t.ctar0 = s.ctar0 ∧ t.ctar1 = s.ctar1 ∧ t.rser = s.rser ∧ t.tfuf = s.tfuf ∧ t.clkEn = s.clkEn ∧
    t.debugHalt = s.debugHalt ∧ t.dozeReq = s.dozeReq ∧ t.host = s.host ∧ t.turns = s.turns ∧ t.rdata = s.rdata ∧
    t.faults = s.faults ∧ t.broughtUp = s.broughtUp ∧
    (s.tcf = true → t.tcf = true) ∧ (s.eoqf = true → t.eoqf = true) ∧ (s.rfof = true → t.rfof = true)

/-- 45_transfer_sequencer.md R185 with 10_state.md R33, R34: as queues, FrameStart takes the head of the TX queue as the frame in
flight, and FrameEnd with room appends the received word to the RX queue. -/
def Obligations.SequencerMovesQueueHeads : Prop :=
  ∀ s : State, FifoOk (dtx s.mcr) s.txf → FifoOk (drx s.mcr) s.rxf →
    (frameStartEnabled s = true → (sequencerMove s).refused = none →
      s.txf.contents (dtx s.mcr) =
        (sequencerMove s).seq.entry :: (sequencerMove s).txf.contents (dtx s.mcr) ∧
      (sequencerMove s).rxf = s.rxf) ∧
    (frameEndEnabled s = true → s.rxf.cnt < drx s.mcr →
      (sequencerMove s).rxf.contents (drx s.mcr) =
        s.rxf.contents (drx s.mcr) ++ [BitVec.ofNat 32 ((Config.freeWord s.draws).toNat % 2 ^ s.seq.n)] ∧
      (sequencerMove s).txf = s.txf)

/-- 45_transfer_sequencer.md R190: the order of a frame's bits on the wire. -/
def Obligations.WireOrderFollowsLsbfe : Prop :=
  ∀ (n : Nat) (v : Word) (k : Nat), k < n →
    (wireOrder false n v)[k]? = some (v.getLsbD (n - 1 - k)) ∧ (wireOrder true n v)[k]? = some (v.getLsbD k) ∧
    (wireOrder false n v).length = n ∧ (wireOrder true n v).length = n

/-- 45_transfer_sequencer.md R188, 10_state.md R37: during a frame each line is at its idle level exactly where the entry does not
assert it, and after the FrameEnd of an entry with CONT = 0 every line is back at its idle level. -/
def Obligations.ChipSelectsReturnToIdle : Prop :=
  (∀ (e w : Word) (s : State) (k : Nat), k < 6 →
    ((pcsLine (launchFrame e w s)).getLsbD k = s.mcr.pcsis.getLsbD k ↔ e.getLsbD (16 + k) = false)) ∧
  (∀ (d : Word) (s : State),
    (s.seq.entry.getLsbD 31 = false → pcsLine (frameEnd d s) = s.mcr.pcsis) ∧
    (s.seq.entry.getLsbD 31 = true → pcsLine (frameEnd d s) = pcsLine s))

/-! ## Invariants -/

/-- The invariant (Safety) holds after reset. -/
def Obligations.ResetMeetsTheInvariant : Prop := Inv State.reset

/-- Every step keeps the invariant: from every state that meets it, whatever the agents do, the FIFOs stay within their depths, only
legal entries are queued, received words are at most 16 bits, DCONF stays 00, the frame in flight is one that FrameStart launched,
the module never runs with MSTR = 0 in a state that is not refused for it, MCR never stands as bring-up leaves it without that being
remembered (log entry 13), frames alternate on the wire, and a state carries at most one mark (10_state.md R33 to R36,
41_module_control.md R106, 60_exceptions.md R226, R230, 45_transfer_sequencer.md R194, R195). -/
def Obligations.EveryStepKeepsTheInvariant : Prop :=
  ∀ s t : State, Inv s → step s = .next t → Inv t

/-- 45_transfer_sequencer.md R195: on the wire every FrameOut is followed by one FrameIn before the next FrameOut, in every state
that any run reaches from one in which it is so. -/
def Obligations.FramesAlternateAlongEveryRun : Prop :=
  ∀ (k : Nat) (s t : State), traceBusy s.trace = some s.seq.busy → Sys2Proof.core.run k s = .next t →
    traceBusy t.trace = some t.seq.busy

/-! ## Agents, environment, driver -/

/-- 10_state.md R50, R51, 60_exceptions.md R226: each environment action sets its input, then `check_slave` runs; nothing else
changes. -/
def Obligations.EnvironmentActionsSetTheirInput : Prop :=
  ∀ (s : State) (ts : List Turn) (b : Bool), Clean s →
    (s.turns = .setClockGate b :: ts → ∃ t, step s = .next t ∧ t = { s with turns := ts, clkEn := b, refused := t.refused } ∧
      t.refused = if running t = true ∧ s.mcr.mstr = false then some .slaveMode else none) ∧
    (s.turns = .setDebugHalt b :: ts → ∃ t, step s = .next t ∧
      t = { s with turns := ts, debugHalt := b, refused := t.refused } ∧
      t.refused = if running t = true ∧ s.mcr.mstr = false then some .slaveMode else none) ∧
    (s.turns = .setDoze b :: ts → ∃ t, step s = .next t ∧ t = { s with turns := ts, dozeReq := b, refused := t.refused } ∧
      t.refused = if running t = true ∧ s.mcr.mstr = false then some .slaveMode else none)

/-- 70_reset_and_hazards.md R240: chip reset as a turn puts the block in its reset state. That the host's program, the turns to
come, the last answer and the count of draws stay is the model's choice (log entry 11). -/
def Obligations.ChipResetTurnResetsTheBlock : Prop :=
  ∀ (s : State) (ts : List Turn), Clean s → s.turns = .chipReset :: ts →
    step s = .next { State.reset with rdata := s.rdata, draws := s.draws, host := s.host, turns := ts }

/-- The model's choice of log entry 7, for 45_transfer_sequencer.md R192's fairness: with no turn listed, an enabled sequencer step
is taken before the host moves; with none enabled the host moves; and with nothing to do the state stays as it is. -/
def Obligations.UnlistedTurnGoesToAnEnabledSequencer : Prop :=
  ∀ s : State, Clean s → s.turns = [] →
    (frameEndEnabled s = true ∨ frameStartEnabled s = true → step s = .next (sequencerMove s)) ∧
    (frameEndEnabled s = false → frameStartEnabled s = false → step s = hostMove s) ∧
    (frameEndEnabled s = false → frameStartEnabled s = false → s.host.todo = [] → step s = .next s)

/-- 46_driver_sequences.md R202: `set_mode` is one read-modify-write of CTAR0 that sets its two bits and leaves every other bit of
whatever CTAR0 held. -/
def Obligations.SetModeWritesItsTwoBits : Prop :=
  ∀ (pol pha : Bool), ∃ clear set : Word,
    driverSetMode pol pha = [rd Off.ctar0 .t, .merge .t clear set, .writeReg Off.ctar0 .t, .ret .ok] ∧
    ∀ c : Word,
      let w := (c &&& ~~~clear) ||| set
      w.getLsbD 26 = pol ∧ w.getLsbD 25 = pha ∧ ∀ k : Nat, k ≠ 26 → k ≠ 25 → w.getLsbD k = c.getLsbD k

/-- 46_driver_sequences.md R203: `set_divider` of two values of the tables is one read-modify-write of CTAR0 after which the ratio
is their product with DBR clear, PBR codes the one and BR the other, and no other bit differs; any other arguments are refused and
nothing is written. -/
def Obligations.SetDividerProgramsTheProduct : Prop :=
  (∀ (s : State) (ops : List HostOp) (ts : List Turn), Clean s → s.turns = .host :: ts → s.host.todo = .refuseDivider :: ops →
    step s = .next { s with turns := ts, host := { s.host with todo := ops }, refused := some .dividerNotRepresentable }) ∧
  ∀ p v : Nat,
    let inTables := p ∈ [2, 3, 5, 7] ∧
      v ∈ [2, 4, 6, 8, 16, 32, 64, 128, 256, 512, 1024, 2048, 4096, 8192, 16384, 32768]
    (inTables → ∃ clear set : Word,
      driverSetDivider p v = [rd Off.ctar0 .t, .merge .t clear set, .writeReg Off.ctar0 .t, .ret .ok] ∧
      ∀ c : Word,
        let w := (c &&& ~~~clear) ||| set
        prescalerValue (w.extractLsb' 16 2) = p ∧ scalerValue (w.extractLsb' 0 4) = v ∧ divRatio w = p * v ∧
          w.getLsbD 31 = false ∧ w &&& 0x7FFCFFF0#32 = c &&& 0x7FFCFFF0#32) ∧
    (¬inTables → driverSetDivider p v = [.refuseDivider])

/-- 30_encoding.md R92: the two halves of a read-modify-write on the host's side: the merge changes one host register and no part of
the block, and the write back is the access of that register's value. -/
def Obligations.ReadModifyWriteMergesThenWrites : Prop :=
  ∀ (s : State) (ops : List HostOp) (ts : List Turn) (off : Offset) (clear set : Word),
    Clean s → s.turns = .host :: ts →
    (s.host.todo = .merge .t clear set :: ops →
      step s = .next { s with turns := ts,
                              host := { s.host with todo := ops,
                                                    x := { s.host.x with t := (s.host.x.t &&& ~~~clear) ||| set } } }) ∧
    (s.host.todo = .writeReg off .t :: ops →
      step s = busAccess (.wr off s.host.x.t) { s with turns := ts, host := { s.host with todo := ops } })

/-- 30_encoding.md R92, 46_driver_sequences.md R215: a poll reads its register into t, spends one read of its budget where it has
one, and goes on with its test, unless the read stopped the machine; the test goes on where the condition holds on the value read,
and polls again where it does not; the condition may be any test of the field polled; and a wait whose budget is spent, the drain of
`send` as well as a poll, ends the operation it stands in with a timeout, whatever was left of that operation, with the block as the
reads left it. That the host then goes on after the operation's own return is the model's reading (log entry 15). -/
def Obligations.PollsRepeatUntilMetOrSpent : Prop :=
  (∀ (s : State) (p : PollSpec) (budget : Option Nat) (ops : List HostOp) (ts : List Turn),
    Clean s → s.turns = .host :: ts →
    (∀ left : Option Nat, (budget = none ∧ left = none) ∨ (∃ k, budget = some (k + 1) ∧ left = some k) →
      s.host.todo = .poll p budget :: ops →
      ∃ u, busAccess (.rd p.off) { s with turns := ts, host := { s.host with todo := .pollTest p left :: ops } } = .next u ∧
        (Clean u → step s = .next { u with host := { u.host with x := { u.host.x with t := u.rdata } } }) ∧
        (¬Clean u → step s = .next u)) ∧
    (s.host.todo = .pollTest p budget :: ops → p.holds s.host.x.t = true →
      step s = .next { s with turns := ts, host := { s.host with todo := ops } }) ∧
    (s.host.todo = .pollTest p budget :: ops → p.holds s.host.x.t = false →
      step s = .next { s with turns := ts, host := { s.host with todo := .poll p budget :: ops } })) ∧
  (∀ (off : Offset) (lo len : Nat) (test : Nat → Bool), ∃ c : PollCond,
    ∀ w : Word, (PollSpec.mk off lo len c).holds w = test (w.extractLsb' lo len).toNat) ∧
  (∀ (s : State) (pre ops : List HostOp) (last : HostOp) (ts : List Turn),
    Clean s → s.turns = .host :: ts → (∀ o ∈ pre, o ≠ .retByte ∧ ∀ r, o ≠ .ret r) → (last = .retByte ∨ ∃ r, last = .ret r) →
    ((∃ p, s.host.todo = .poll p (some 0) :: (pre ++ last :: ops)) ∨ s.host.todo = .drain (some 0) :: (pre ++ last :: ops)) →
    step s = .next { s with turns := ts, host := { s.host with todo := ops, result := some (.err .timeout) } })

/-- 46_driver_sequences.md R206, R207: on the word a read of SR answers, `write` goes on exactly where at most 3 entries are queued,
and `read` exactly where a received word is. -/
def Obligations.PollsSeeTheFifoCounts : Prop :=
  ∀ s : State, FifoOk (dtx s.mcr) s.txf → FifoOk (drx s.mcr) s.rxf →
    ∃ t, exec .rdSr s = .next t ∧
      (txRoom.holds t.rdata = true ↔ s.txf.cnt ≤ 3) ∧ (rxReady.holds t.rdata = true ↔ 0 < s.rxf.cnt)

/-- 46_driver_sequences.md R213: where the wait of `write` has just ended, on a module that is up and has its TX FIFO enabled, the
next push of `write` is admitted and leaves no mark, whatever one move of the sequencer did in between. -/
def Obligations.PushAfterTheWaitIsAdmitted : Prop :=
  ∀ (s : State) (b : BitVec 8), Inv s → Clean s → s.mcr.mstr = true → s.mcr.mdis = false → s.mcr.disTxf = false →
    txRoom.holds (packSr s) = true →
    (∃ t, exec (.wrPushr (pushWord b)) s = .next t ∧ Clean t) ∧
    (Clean (sequencerMove s) → ∃ t, exec (.wrPushr (pushWord b)) (sequencerMove s) = .next t ∧ Clean t)

/-- 46_driver_sequences.md R209, R210: the drain of `send` reads SR into t, pops again while RXCTR is above 0, and else goes on; and
the fault check writes RFOF alone and ends the operation with an overrun exactly where bit 19 is 1. That the word is popped also
when the read of SR before it was the last one allowed is the model's choice (log entry 16). -/
def Obligations.SendDrainsAndReportsOverrun : Prop :=
  ∀ (s : State) (budget : Option Nat) (ops : List HostOp) (ts : List Turn), Clean s → s.turns = .host :: ts →
    (∀ left : Option Nat, (budget = none ∧ left = none) ∨ (∃ k, budget = some (k + 1) ∧ left = some k) →
      s.host.todo = .drain budget :: ops →
      ∃ u, busAccess (.rd Off.sr) { s with turns := ts, host := { s.host with todo := .drainTest left :: ops } } = .next u ∧
        (Clean u → step s = .next { u with host := { u.host with x := { u.host.x with t := u.rdata } } }) ∧
        (¬Clean u → step s = .next u)) ∧
    (s.host.todo = .drainTest budget :: ops → 0 < (s.host.x.t.extractLsb' 4 4).toNat →
      step s = .next { s with turns := ts,
                              host := { s.host with todo := .access (.rd Off.popr) (some .u) :: .drain budget :: ops } }) ∧
    (s.host.todo = .drainTest budget :: ops → (s.host.x.t.extractLsb' 4 4).toNat = 0 →
      step s = .next { s with turns := ts, host := { s.host with todo := ops } }) ∧
    (s.host.todo = .overrunTest :: .ret .ok :: ops → s.host.x.t.getLsbD 19 = true →
      step s = .next { s with turns := ts,
                              host := { s.host with todo := .access (.wr Off.sr 0x00080000#32) none :: .ret (.err .overrun) :: ops } }) ∧
    (s.host.todo = .overrunTest :: .ret .ok :: ops → s.host.x.t.getLsbD 19 = false →
      step s = .next { s with turns := ts, host := { s.host with todo := .ret .ok :: ops } })

/-- 46_driver_sequences.md R211: from every state that meets the invariant and carries no mark, with MDIS = 1 or MSTR = 1, the
fifteen moves of the host that run `start()` leave MSTR = 1, MDIS = 0, HALT = 0 and FMSZ = 7, both FIFOs empty, and every other
bit of CTAR0 as it was. It is stated for the run in which only the host moves. -/
def Obligations.StartBringsTheModuleUp : Prop :=
  ∀ (s : State) (ops : List HostOp) (ts : List Turn), Inv s → Clean s → (s.mcr.mdis = true ∨ s.mcr.mstr = true) →
    s.turns = List.replicate 15 .host ++ ts → s.host.todo = driverStart ++ ops →
    ∃ t, Sys2Proof.core.run 15 s = .next t ∧ Clean t ∧ t.turns = ts ∧ t.host.todo = ops ∧ t.host.result = some .ok ∧
      t.clkEn = true ∧ t.mcr.mstr = true ∧ t.mcr.mdis = false ∧ t.mcr.halt = false ∧
      t.mcr.pcsis = 0b111111#6 ∧ t.ctar0 = (s.ctar0 &&& ~~~0x78000000#32) ||| 0x38000000#32 ∧
      t.txf.cnt = 0 ∧ t.rxf.cnt = 0 ∧ t.seq = s.seq

/-- 60_exceptions.md R233: the operating modes and their conditions. -/
def Obligations.OperatingModesPartitionTheStates : Prop :=
  ∀ s : State,
    (mode s = .disabled ↔ s.mcr.mdis = true) ∧
    (mode s = .stopped ↔ s.mcr.mdis = false ∧ running s = false) ∧
    (mode s = .runningMaster ↔ running s = true ∧ s.mcr.mstr = true) ∧
    (mode s = .runningSlave ↔ running s = true ∧ s.mcr.mstr = false)

/-- 45_transfer_sequencer.md R194: the transfer states and their conditions. A master that does not run is uninitialized before the
first bring-up and stopped after it. That MSTR = 0 is uninitialized after the first bring-up too is the model's choice (log entry
13): R194's words leave it open. Which step counts as bring-up is the model's reading (log entry 13): from a state that meets
the invariant, every step but a chip reset remembers bring-up exactly where it was remembered already or MCR now stands as bring-up
leaves it (MSTR = 1, MDIS = 0, HALT = 0), and a chip reset forgets it. -/
def Obligations.TransferStatesFollowBringUp : Prop :=
  (∀ s : State,
    (transferState s = .uninitialized ↔ s.mcr.mstr = false ∨ (running s = false ∧ s.broughtUp = false)) ∧
    (transferState s = .ready ↔ running s = true ∧ s.mcr.mstr = true ∧ s.txf.cnt = 0 ∧ s.seq.busy = false) ∧
    (transferState s = .transferring ↔ running s = true ∧ s.mcr.mstr = true ∧ (0 < s.txf.cnt ∨ s.seq.busy = true)) ∧
    (transferState s = .stopped ↔ running s = false ∧ s.mcr.mstr = true ∧ s.broughtUp = true)) ∧
  (∀ s t : State, Inv s → step s = .next t →
    ((∀ ts, s.turns ≠ .chipReset :: ts) →
      (t.broughtUp = true ↔
        s.broughtUp = true ∨ (t.mcr.mstr = true ∧ t.mcr.mdis = false ∧ t.mcr.halt = false))) ∧
    (∀ ts, s.turns = .chipReset :: ts → t.broughtUp = false))
end

