-- ==== Sys2Proof/Laws/State.lean ====
section
/-! SUPPORT. For each named update of State, one lemma per field: what the field is after it. All but those of `checkSlave` hold
by unfolding alone. -/

namespace Sys2Proof.Machine

variable (s : State)

/-! Fields after `answer`. -/

@[simp] theorem answer_mcr (v : Word) : (answer v s).mcr = s.mcr := rfl
@[simp] theorem answer_tcnt (v : Word) : (answer v s).tcnt = s.tcnt := rfl
@[simp] theorem answer_ctar0 (v : Word) : (answer v s).ctar0 = s.ctar0 := rfl
@[simp] theorem answer_ctar1 (v : Word) : (answer v s).ctar1 = s.ctar1 := rfl
@[simp] theorem answer_tcf (v : Word) : (answer v s).tcf = s.tcf := rfl
@[simp] theorem answer_eoqf (v : Word) : (answer v s).eoqf = s.eoqf := rfl
@[simp] theorem answer_tfuf (v : Word) : (answer v s).tfuf = s.tfuf := rfl
@[simp] theorem answer_rfof (v : Word) : (answer v s).rfof = s.rfof := rfl
@[simp] theorem answer_rser (v : Word) : (answer v s).rser = s.rser := rfl
@[simp] theorem answer_txf (v : Word) : (answer v s).txf = s.txf := rfl
@[simp] theorem answer_rxf (v : Word) : (answer v s).rxf = s.rxf := rfl
@[simp] theorem answer_seq (v : Word) : (answer v s).seq = s.seq := rfl
@[simp] theorem answer_pcsAct (v : Word) : (answer v s).pcsAct = s.pcsAct := rfl
@[simp] theorem answer_faults (v : Word) : (answer v s).faults = s.faults := rfl
@[simp] theorem answer_refused (v : Word) : (answer v s).refused = s.refused := rfl
@[simp] theorem answer_clkEn (v : Word) : (answer v s).clkEn = s.clkEn := rfl
@[simp] theorem answer_debugHalt (v : Word) : (answer v s).debugHalt = s.debugHalt := rfl
@[simp] theorem answer_dozeReq (v : Word) : (answer v s).dozeReq = s.dozeReq := rfl
@[simp] theorem answer_trace (v : Word) : (answer v s).trace = s.trace := rfl
@[simp] theorem answer_broughtUp (v : Word) : (answer v s).broughtUp = s.broughtUp := rfl
@[simp] theorem answer_rdata (v : Word) : (answer v s).rdata = v := rfl
@[simp] theorem answer_draws (v : Word) : (answer v s).draws = s.draws := rfl
@[simp] theorem answer_host (v : Word) : (answer v s).host = s.host := rfl
@[simp] theorem answer_turns (v : Word) : (answer v s).turns = s.turns := rfl

/-! Fields after `answerDraw`. -/

@[simp] theorem answerDraw_mcr : (answerDraw s).mcr = s.mcr := rfl
@[simp] theorem answerDraw_tcnt : (answerDraw s).tcnt = s.tcnt := rfl
@[simp] theorem answerDraw_ctar0 : (answerDraw s).ctar0 = s.ctar0 := rfl
@[simp] theorem answerDraw_ctar1 : (answerDraw s).ctar1 = s.ctar1 := rfl
@[simp] theorem answerDraw_tcf : (answerDraw s).tcf = s.tcf := rfl
@[simp] theorem answerDraw_eoqf : (answerDraw s).eoqf = s.eoqf := rfl
@[simp] theorem answerDraw_tfuf : (answerDraw s).tfuf = s.tfuf := rfl
@[simp] theorem answerDraw_rfof : (answerDraw s).rfof = s.rfof := rfl
@[simp] theorem answerDraw_rser : (answerDraw s).rser = s.rser := rfl
@[simp] theorem answerDraw_txf : (answerDraw s).txf = s.txf := rfl
@[simp] theorem answerDraw_rxf : (answerDraw s).rxf = s.rxf := rfl
@[simp] theorem answerDraw_seq : (answerDraw s).seq = s.seq := rfl
@[simp] theorem answerDraw_pcsAct : (answerDraw s).pcsAct = s.pcsAct := rfl
@[simp] theorem answerDraw_faults : (answerDraw s).faults = s.faults := rfl
@[simp] theorem answerDraw_refused : (answerDraw s).refused = s.refused := rfl
@[simp] theorem answerDraw_clkEn : (answerDraw s).clkEn = s.clkEn := rfl
@[simp] theorem answerDraw_debugHalt : (answerDraw s).debugHalt = s.debugHalt := rfl
@[simp] theorem answerDraw_dozeReq : (answerDraw s).dozeReq = s.dozeReq := rfl
@[simp] theorem answerDraw_trace : (answerDraw s).trace = s.trace := rfl
@[simp] theorem answerDraw_broughtUp : (answerDraw s).broughtUp = s.broughtUp := rfl
@[simp] theorem answerDraw_rdata : (answerDraw s).rdata = Config.freeWord s.draws := rfl
@[simp] theorem answerDraw_draws : (answerDraw s).draws = s.draws + 1 := rfl
@[simp] theorem answerDraw_host : (answerDraw s).host = s.host := rfl
@[simp] theorem answerDraw_turns : (answerDraw s).turns = s.turns := rfl

/-! Fields after `raiseFault`. -/

@[simp] theorem raiseFault_mcr (f : Fault) : (raiseFault f s).mcr = s.mcr := rfl
@[simp] theorem raiseFault_tcnt (f : Fault) : (raiseFault f s).tcnt = s.tcnt := rfl
@[simp] theorem raiseFault_ctar0 (f : Fault) : (raiseFault f s).ctar0 = s.ctar0 := rfl
@[simp] theorem raiseFault_ctar1 (f : Fault) : (raiseFault f s).ctar1 = s.ctar1 := rfl
@[simp] theorem raiseFault_tcf (f : Fault) : (raiseFault f s).tcf = s.tcf := rfl
@[simp] theorem raiseFault_eoqf (f : Fault) : (raiseFault f s).eoqf = s.eoqf := rfl
@[simp] theorem raiseFault_tfuf (f : Fault) : (raiseFault f s).tfuf = s.tfuf := rfl
@[simp] theorem raiseFault_rfof (f : Fault) : (raiseFault f s).rfof = s.rfof := rfl
@[simp] theorem raiseFault_rser (f : Fault) : (raiseFault f s).rser = s.rser := rfl
@[simp] theorem raiseFault_txf (f : Fault) : (raiseFault f s).txf = s.txf := rfl
@[simp] theorem raiseFault_rxf (f : Fault) : (raiseFault f s).rxf = s.rxf := rfl
@[simp] theorem raiseFault_seq (f : Fault) : (raiseFault f s).seq = s.seq := rfl
@[simp] theorem raiseFault_pcsAct (f : Fault) : (raiseFault f s).pcsAct = s.pcsAct := rfl
@[simp] theorem raiseFault_faults (f : Fault) : (raiseFault f s).faults = s.faults ++ [f] := rfl
@[simp] theorem raiseFault_refused (f : Fault) : (raiseFault f s).refused = s.refused := rfl
@[simp] theorem raiseFault_clkEn (f : Fault) : (raiseFault f s).clkEn = s.clkEn := rfl
@[simp] theorem raiseFault_debugHalt (f : Fault) : (raiseFault f s).debugHalt = s.debugHalt := rfl
@[simp] theorem raiseFault_dozeReq (f : Fault) : (raiseFault f s).dozeReq = s.dozeReq := rfl
@[simp] theorem raiseFault_trace (f : Fault) : (raiseFault f s).trace = s.trace := rfl
@[simp] theorem raiseFault_broughtUp (f : Fault) : (raiseFault f s).broughtUp = s.broughtUp := rfl
@[simp] theorem raiseFault_rdata (f : Fault) : (raiseFault f s).rdata = s.rdata := rfl
@[simp] theorem raiseFault_draws (f : Fault) : (raiseFault f s).draws = s.draws := rfl
@[simp] theorem raiseFault_host (f : Fault) : (raiseFault f s).host = s.host := rfl
@[simp] theorem raiseFault_turns (f : Fault) : (raiseFault f s).turns = s.turns := rfl

/-! Fields after `refuse`. -/

@[simp] theorem refuse_mcr (r : Refusal) : (refuse r s).mcr = s.mcr := rfl
@[simp] theorem refuse_tcnt (r : Refusal) : (refuse r s).tcnt = s.tcnt := rfl
@[simp] theorem refuse_ctar0 (r : Refusal) : (refuse r s).ctar0 = s.ctar0 := rfl
@[simp] theorem refuse_ctar1 (r : Refusal) : (refuse r s).ctar1 = s.ctar1 := rfl
@[simp] theorem refuse_tcf (r : Refusal) : (refuse r s).tcf = s.tcf := rfl
@[simp] theorem refuse_eoqf (r : Refusal) : (refuse r s).eoqf = s.eoqf := rfl
@[simp] theorem refuse_tfuf (r : Refusal) : (refuse r s).tfuf = s.tfuf := rfl
@[simp] theorem refuse_rfof (r : Refusal) : (refuse r s).rfof = s.rfof := rfl
@[simp] theorem refuse_rser (r : Refusal) : (refuse r s).rser = s.rser := rfl
@[simp] theorem refuse_txf (r : Refusal) : (refuse r s).txf = s.txf := rfl
@[simp] theorem refuse_rxf (r : Refusal) : (refuse r s).rxf = s.rxf := rfl
@[simp] theorem refuse_seq (r : Refusal) : (refuse r s).seq = s.seq := rfl
@[simp] theorem refuse_pcsAct (r : Refusal) : (refuse r s).pcsAct = s.pcsAct := rfl
@[simp] theorem refuse_faults (r : Refusal) : (refuse r s).faults = s.faults := rfl
@[simp] theorem refuse_refused (r : Refusal) : (refuse r s).refused = some r := rfl
@[simp] theorem refuse_clkEn (r : Refusal) : (refuse r s).clkEn = s.clkEn := rfl
@[simp] theorem refuse_debugHalt (r : Refusal) : (refuse r s).debugHalt = s.debugHalt := rfl
@[simp] theorem refuse_dozeReq (r : Refusal) : (refuse r s).dozeReq = s.dozeReq := rfl
@[simp] theorem refuse_trace (r : Refusal) : (refuse r s).trace = s.trace := rfl
@[simp] theorem refuse_broughtUp (r : Refusal) : (refuse r s).broughtUp = s.broughtUp := rfl
@[simp] theorem refuse_rdata (r : Refusal) : (refuse r s).rdata = s.rdata := rfl
@[simp] theorem refuse_draws (r : Refusal) : (refuse r s).draws = s.draws := rfl
@[simp] theorem refuse_host (r : Refusal) : (refuse r s).host = s.host := rfl
@[simp] theorem refuse_turns (r : Refusal) : (refuse r s).turns = s.turns := rfl

/-! Fields after `flushTx`. -/

@[simp] theorem flushTx_mcr : (flushTx s).mcr = s.mcr := rfl
@[simp] theorem flushTx_tcnt : (flushTx s).tcnt = s.tcnt := rfl
@[simp] theorem flushTx_ctar0 : (flushTx s).ctar0 = s.ctar0 := rfl
@[simp] theorem flushTx_ctar1 : (flushTx s).ctar1 = s.ctar1 := rfl
@[simp] theorem flushTx_tcf : (flushTx s).tcf = s.tcf := rfl
@[simp] theorem flushTx_eoqf : (flushTx s).eoqf = s.eoqf := rfl
@[simp] theorem flushTx_tfuf : (flushTx s).tfuf = s.tfuf := rfl
@[simp] theorem flushTx_rfof : (flushTx s).rfof = s.rfof := rfl
@[simp] theorem flushTx_rser : (flushTx s).rser = s.rser := rfl
@[simp] theorem flushTx_txf : (flushTx s).txf = s.txf.flush := rfl
@[simp] theorem flushTx_rxf : (flushTx s).rxf = s.rxf := rfl
@[simp] theorem flushTx_seq : (flushTx s).seq = s.seq := rfl
@[simp] theorem flushTx_pcsAct : (flushTx s).pcsAct = s.pcsAct := rfl
@[simp] theorem flushTx_faults : (flushTx s).faults = s.faults := rfl
@[simp] theorem flushTx_refused : (flushTx s).refused = s.refused := rfl
@[simp] theorem flushTx_clkEn : (flushTx s).clkEn = s.clkEn := rfl
@[simp] theorem flushTx_debugHalt : (flushTx s).debugHalt = s.debugHalt := rfl
@[simp] theorem flushTx_dozeReq : (flushTx s).dozeReq = s.dozeReq := rfl
@[simp] theorem flushTx_trace : (flushTx s).trace = s.trace := rfl
@[simp] theorem flushTx_broughtUp : (flushTx s).broughtUp = s.broughtUp := rfl
@[simp] theorem flushTx_rdata : (flushTx s).rdata = s.rdata := rfl
@[simp] theorem flushTx_draws : (flushTx s).draws = s.draws := rfl
@[simp] theorem flushTx_host : (flushTx s).host = s.host := rfl
@[simp] theorem flushTx_turns : (flushTx s).turns = s.turns := rfl

/-! Fields after `flushRx`. -/

@[simp] theorem flushRx_mcr : (flushRx s).mcr = s.mcr := rfl
@[simp] theorem flushRx_tcnt : (flushRx s).tcnt = s.tcnt := rfl
@[simp] theorem flushRx_ctar0 : (flushRx s).ctar0 = s.ctar0 := rfl
@[simp] theorem flushRx_ctar1 : (flushRx s).ctar1 = s.ctar1 := rfl
@[simp] theorem flushRx_tcf : (flushRx s).tcf = s.tcf := rfl
@[simp] theorem flushRx_eoqf : (flushRx s).eoqf = s.eoqf := rfl
@[simp] theorem flushRx_tfuf : (flushRx s).tfuf = s.tfuf := rfl
@[simp] theorem flushRx_rfof : (flushRx s).rfof = s.rfof := rfl
@[simp] theorem flushRx_rser : (flushRx s).rser = s.rser := rfl
@[simp] theorem flushRx_txf : (flushRx s).txf = s.txf := rfl
@[simp] theorem flushRx_rxf : (flushRx s).rxf = s.rxf.flush := rfl
@[simp] theorem flushRx_seq : (flushRx s).seq = s.seq := rfl
@[simp] theorem flushRx_pcsAct : (flushRx s).pcsAct = s.pcsAct := rfl
@[simp] theorem flushRx_faults : (flushRx s).faults = s.faults := rfl
@[simp] theorem flushRx_refused : (flushRx s).refused = s.refused := rfl
@[simp] theorem flushRx_clkEn : (flushRx s).clkEn = s.clkEn := rfl
@[simp] theorem flushRx_debugHalt : (flushRx s).debugHalt = s.debugHalt := rfl
@[simp] theorem flushRx_dozeReq : (flushRx s).dozeReq = s.dozeReq := rfl
@[simp] theorem flushRx_trace : (flushRx s).trace = s.trace := rfl
@[simp] theorem flushRx_broughtUp : (flushRx s).broughtUp = s.broughtUp := rfl
@[simp] theorem flushRx_rdata : (flushRx s).rdata = s.rdata := rfl
@[simp] theorem flushRx_draws : (flushRx s).draws = s.draws := rfl
@[simp] theorem flushRx_host : (flushRx s).host = s.host := rfl
@[simp] theorem flushRx_turns : (flushRx s).turns = s.turns := rfl

/-! Fields after `clearFlags`. -/

@[simp] theorem clearFlags_mcr (v : Word) : (clearFlags v s).mcr = s.mcr := rfl
@[simp] theorem clearFlags_tcnt (v : Word) : (clearFlags v s).tcnt = s.tcnt := rfl
@[simp] theorem clearFlags_ctar0 (v : Word) : (clearFlags v s).ctar0 = s.ctar0 := rfl
@[simp] theorem clearFlags_ctar1 (v : Word) : (clearFlags v s).ctar1 = s.ctar1 := rfl
@[simp] theorem clearFlags_tcf (v : Word) : (clearFlags v s).tcf = (s.tcf && !bit v 31) := rfl
@[simp] theorem clearFlags_eoqf (v : Word) : (clearFlags v s).eoqf = (s.eoqf && !bit v 28) := rfl
@[simp] theorem clearFlags_tfuf (v : Word) : (clearFlags v s).tfuf = (s.tfuf && !bit v 27) := rfl
@[simp] theorem clearFlags_rfof (v : Word) : (clearFlags v s).rfof = (s.rfof && !bit v 19) := rfl
@[simp] theorem clearFlags_rser (v : Word) : (clearFlags v s).rser = s.rser := rfl
@[simp] theorem clearFlags_txf (v : Word) : (clearFlags v s).txf = s.txf := rfl
@[simp] theorem clearFlags_rxf (v : Word) : (clearFlags v s).rxf = s.rxf := rfl
@[simp] theorem clearFlags_seq (v : Word) : (clearFlags v s).seq = s.seq := rfl
@[simp] theorem clearFlags_pcsAct (v : Word) : (clearFlags v s).pcsAct = s.pcsAct := rfl
@[simp] theorem clearFlags_faults (v : Word) : (clearFlags v s).faults = s.faults := rfl
@[simp] theorem clearFlags_refused (v : Word) : (clearFlags v s).refused = s.refused := rfl
@[simp] theorem clearFlags_clkEn (v : Word) : (clearFlags v s).clkEn = s.clkEn := rfl
@[simp] theorem clearFlags_debugHalt (v : Word) : (clearFlags v s).debugHalt = s.debugHalt := rfl
@[simp] theorem clearFlags_dozeReq (v : Word) : (clearFlags v s).dozeReq = s.dozeReq := rfl
@[simp] theorem clearFlags_trace (v : Word) : (clearFlags v s).trace = s.trace := rfl
@[simp] theorem clearFlags_broughtUp (v : Word) : (clearFlags v s).broughtUp = s.broughtUp := rfl
@[simp] theorem clearFlags_rdata (v : Word) : (clearFlags v s).rdata = s.rdata := rfl
@[simp] theorem clearFlags_draws (v : Word) : (clearFlags v s).draws = s.draws := rfl
@[simp] theorem clearFlags_host (v : Word) : (clearFlags v s).host = s.host := rfl
@[simp] theorem clearFlags_turns (v : Word) : (clearFlags v s).turns = s.turns := rfl

/-! Fields after `setTodo`. -/

@[simp] theorem setTodo_mcr (ops : List HostOp) : (setTodo ops s).mcr = s.mcr := rfl
@[simp] theorem setTodo_tcnt (ops : List HostOp) : (setTodo ops s).tcnt = s.tcnt := rfl
@[simp] theorem setTodo_ctar0 (ops : List HostOp) : (setTodo ops s).ctar0 = s.ctar0 := rfl
@[simp] theorem setTodo_ctar1 (ops : List HostOp) : (setTodo ops s).ctar1 = s.ctar1 := rfl
@[simp] theorem setTodo_tcf (ops : List HostOp) : (setTodo ops s).tcf = s.tcf := rfl
@[simp] theorem setTodo_eoqf (ops : List HostOp) : (setTodo ops s).eoqf = s.eoqf := rfl
@[simp] theorem setTodo_tfuf (ops : List HostOp) : (setTodo ops s).tfuf = s.tfuf := rfl
@[simp] theorem setTodo_rfof (ops : List HostOp) : (setTodo ops s).rfof = s.rfof := rfl
@[simp] theorem setTodo_rser (ops : List HostOp) : (setTodo ops s).rser = s.rser := rfl
@[simp] theorem setTodo_txf (ops : List HostOp) : (setTodo ops s).txf = s.txf := rfl
@[simp] theorem setTodo_rxf (ops : List HostOp) : (setTodo ops s).rxf = s.rxf := rfl
@[simp] theorem setTodo_seq (ops : List HostOp) : (setTodo ops s).seq = s.seq := rfl
@[simp] theorem setTodo_pcsAct (ops : List HostOp) : (setTodo ops s).pcsAct = s.pcsAct := rfl
@[simp] theorem setTodo_faults (ops : List HostOp) : (setTodo ops s).faults = s.faults := rfl
@[simp] theorem setTodo_refused (ops : List HostOp) : (setTodo ops s).refused = s.refused := rfl
@[simp] theorem setTodo_clkEn (ops : List HostOp) : (setTodo ops s).clkEn = s.clkEn := rfl
@[simp] theorem setTodo_debugHalt (ops : List HostOp) : (setTodo ops s).debugHalt = s.debugHalt := rfl
@[simp] theorem setTodo_dozeReq (ops : List HostOp) : (setTodo ops s).dozeReq = s.dozeReq := rfl
@[simp] theorem setTodo_trace (ops : List HostOp) : (setTodo ops s).trace = s.trace := rfl
@[simp] theorem setTodo_broughtUp (ops : List HostOp) : (setTodo ops s).broughtUp = s.broughtUp := rfl
@[simp] theorem setTodo_rdata (ops : List HostOp) : (setTodo ops s).rdata = s.rdata := rfl
@[simp] theorem setTodo_draws (ops : List HostOp) : (setTodo ops s).draws = s.draws := rfl
@[simp] theorem setTodo_host (ops : List HostOp) : (setTodo ops s).host = { s.host with todo := ops } := rfl
@[simp] theorem setTodo_turns (ops : List HostOp) : (setTodo ops s).turns = s.turns := rfl

/-! Fields after `setResult`. -/

@[simp] theorem setResult_mcr (r : DriverResult) : (setResult r s).mcr = s.mcr := rfl
@[simp] theorem setResult_tcnt (r : DriverResult) : (setResult r s).tcnt = s.tcnt := rfl
@[simp] theorem setResult_ctar0 (r : DriverResult) : (setResult r s).ctar0 = s.ctar0 := rfl
@[simp] theorem setResult_ctar1 (r : DriverResult) : (setResult r s).ctar1 = s.ctar1 := rfl
@[simp] theorem setResult_tcf (r : DriverResult) : (setResult r s).tcf = s.tcf := rfl
@[simp] theorem setResult_eoqf (r : DriverResult) : (setResult r s).eoqf = s.eoqf := rfl
@[simp] theorem setResult_tfuf (r : DriverResult) : (setResult r s).tfuf = s.tfuf := rfl
@[simp] theorem setResult_rfof (r : DriverResult) : (setResult r s).rfof = s.rfof := rfl
@[simp] theorem setResult_rser (r : DriverResult) : (setResult r s).rser = s.rser := rfl
@[simp] theorem setResult_txf (r : DriverResult) : (setResult r s).txf = s.txf := rfl
@[simp] theorem setResult_rxf (r : DriverResult) : (setResult r s).rxf = s.rxf := rfl
@[simp] theorem setResult_seq (r : DriverResult) : (setResult r s).seq = s.seq := rfl
@[simp] theorem setResult_pcsAct (r : DriverResult) : (setResult r s).pcsAct = s.pcsAct := rfl
@[simp] theorem setResult_faults (r : DriverResult) : (setResult r s).faults = s.faults := rfl
@[simp] theorem setResult_refused (r : DriverResult) : (setResult r s).refused = s.refused := rfl
@[simp] theorem setResult_clkEn (r : DriverResult) : (setResult r s).clkEn = s.clkEn := rfl
@[simp] theorem setResult_debugHalt (r : DriverResult) : (setResult r s).debugHalt = s.debugHalt := rfl
@[simp] theorem setResult_dozeReq (r : DriverResult) : (setResult r s).dozeReq = s.dozeReq := rfl
@[simp] theorem setResult_trace (r : DriverResult) : (setResult r s).trace = s.trace := rfl
@[simp] theorem setResult_broughtUp (r : DriverResult) : (setResult r s).broughtUp = s.broughtUp := rfl
@[simp] theorem setResult_rdata (r : DriverResult) : (setResult r s).rdata = s.rdata := rfl
@[simp] theorem setResult_draws (r : DriverResult) : (setResult r s).draws = s.draws := rfl
@[simp] theorem setResult_host (r : DriverResult) : (setResult r s).host = { s.host with result := some r } := rfl
@[simp] theorem setResult_turns (r : DriverResult) : (setResult r s).turns = s.turns := rfl

/-! Fields after `setHostReg`. -/

@[simp] theorem setHostReg_mcr (r : HostReg) (v : Word) : (setHostReg r v s).mcr = s.mcr := rfl
@[simp] theorem setHostReg_tcnt (r : HostReg) (v : Word) : (setHostReg r v s).tcnt = s.tcnt := rfl
@[simp] theorem setHostReg_ctar0 (r : HostReg) (v : Word) : (setHostReg r v s).ctar0 = s.ctar0 := rfl
@[simp] theorem setHostReg_ctar1 (r : HostReg) (v : Word) : (setHostReg r v s).ctar1 = s.ctar1 := rfl
@[simp] theorem setHostReg_tcf (r : HostReg) (v : Word) : (setHostReg r v s).tcf = s.tcf := rfl
@[simp] theorem setHostReg_eoqf (r : HostReg) (v : Word) : (setHostReg r v s).eoqf = s.eoqf := rfl
@[simp] theorem setHostReg_tfuf (r : HostReg) (v : Word) : (setHostReg r v s).tfuf = s.tfuf := rfl
@[simp] theorem setHostReg_rfof (r : HostReg) (v : Word) : (setHostReg r v s).rfof = s.rfof := rfl
@[simp] theorem setHostReg_rser (r : HostReg) (v : Word) : (setHostReg r v s).rser = s.rser := rfl
@[simp] theorem setHostReg_txf (r : HostReg) (v : Word) : (setHostReg r v s).txf = s.txf := rfl
@[simp] theorem setHostReg_rxf (r : HostReg) (v : Word) : (setHostReg r v s).rxf = s.rxf := rfl
@[simp] theorem setHostReg_seq (r : HostReg) (v : Word) : (setHostReg r v s).seq = s.seq := rfl
@[simp] theorem setHostReg_pcsAct (r : HostReg) (v : Word) : (setHostReg r v s).pcsAct = s.pcsAct := rfl
@[simp] theorem setHostReg_faults (r : HostReg) (v : Word) : (setHostReg r v s).faults = s.faults := rfl
@[simp] theorem setHostReg_refused (r : HostReg) (v : Word) : (setHostReg r v s).refused = s.refused := rfl
@[simp] theorem setHostReg_clkEn (r : HostReg) (v : Word) : (setHostReg r v s).clkEn = s.clkEn := rfl
@[simp] theorem setHostReg_debugHalt (r : HostReg) (v : Word) : (setHostReg r v s).debugHalt = s.debugHalt := rfl
@[simp] theorem setHostReg_dozeReq (r : HostReg) (v : Word) : (setHostReg r v s).dozeReq = s.dozeReq := rfl
@[simp] theorem setHostReg_trace (r : HostReg) (v : Word) : (setHostReg r v s).trace = s.trace := rfl
@[simp] theorem setHostReg_broughtUp (r : HostReg) (v : Word) : (setHostReg r v s).broughtUp = s.broughtUp := rfl
@[simp] theorem setHostReg_rdata (r : HostReg) (v : Word) : (setHostReg r v s).rdata = s.rdata := rfl
@[simp] theorem setHostReg_draws (r : HostReg) (v : Word) : (setHostReg r v s).draws = s.draws := rfl
@[simp] theorem setHostReg_host (r : HostReg) (v : Word) : (setHostReg r v s).host = { s.host with x := s.host.x.set r v } := rfl
@[simp] theorem setHostReg_turns (r : HostReg) (v : Word) : (setHostReg r v s).turns = s.turns := rfl

/-! Fields after `checkSlave`, which touches only `refused`. -/

theorem checkSlave_eq : checkSlave s = { s with refused := (checkSlave s).refused } := by
  unfold checkSlave; split <;> rfl

theorem checkSlave_refused :
    (checkSlave s).refused = if running s && !s.mcr.mstr then some .slaveMode else s.refused := by
  unfold checkSlave; split <;> simp_all

@[simp] theorem checkSlave_mcr : (checkSlave s).mcr = s.mcr := by rw [checkSlave_eq]
@[simp] theorem checkSlave_tcnt : (checkSlave s).tcnt = s.tcnt := by rw [checkSlave_eq]
@[simp] theorem checkSlave_ctar0 : (checkSlave s).ctar0 = s.ctar0 := by rw [checkSlave_eq]
@[simp] theorem checkSlave_ctar1 : (checkSlave s).ctar1 = s.ctar1 := by rw [checkSlave_eq]
@[simp] theorem checkSlave_tcf : (checkSlave s).tcf = s.tcf := by rw [checkSlave_eq]
@[simp] theorem checkSlave_eoqf : (checkSlave s).eoqf = s.eoqf := by rw [checkSlave_eq]
@[simp] theorem checkSlave_tfuf : (checkSlave s).tfuf = s.tfuf := by rw [checkSlave_eq]
@[simp] theorem checkSlave_rfof : (checkSlave s).rfof = s.rfof := by rw [checkSlave_eq]
@[simp] theorem checkSlave_rser : (checkSlave s).rser = s.rser := by rw [checkSlave_eq]
@[simp] theorem checkSlave_txf : (checkSlave s).txf = s.txf := by rw [checkSlave_eq]
@[simp] theorem checkSlave_rxf : (checkSlave s).rxf = s.rxf := by rw [checkSlave_eq]
@[simp] theorem checkSlave_seq : (checkSlave s).seq = s.seq := by rw [checkSlave_eq]
@[simp] theorem checkSlave_pcsAct : (checkSlave s).pcsAct = s.pcsAct := by rw [checkSlave_eq]
@[simp] theorem checkSlave_faults : (checkSlave s).faults = s.faults := by rw [checkSlave_eq]
@[simp] theorem checkSlave_clkEn : (checkSlave s).clkEn = s.clkEn := by rw [checkSlave_eq]
@[simp] theorem checkSlave_debugHalt : (checkSlave s).debugHalt = s.debugHalt := by rw [checkSlave_eq]
@[simp] theorem checkSlave_dozeReq : (checkSlave s).dozeReq = s.dozeReq := by rw [checkSlave_eq]
@[simp] theorem checkSlave_trace : (checkSlave s).trace = s.trace := by rw [checkSlave_eq]
@[simp] theorem checkSlave_broughtUp : (checkSlave s).broughtUp = s.broughtUp := by rw [checkSlave_eq]
@[simp] theorem checkSlave_rdata : (checkSlave s).rdata = s.rdata := by rw [checkSlave_eq]
@[simp] theorem checkSlave_draws : (checkSlave s).draws = s.draws := by rw [checkSlave_eq]
@[simp] theorem checkSlave_host : (checkSlave s).host = s.host := by rw [checkSlave_eq]
@[simp] theorem checkSlave_turns : (checkSlave s).turns = s.turns := by rw [checkSlave_eq]

/-- `running` reads only the clock gate, MCR, EOQF, the debug halt and the doze request (45_transfer_sequencer.md R180). -/
theorem running_congr {s t : State} (hm : t.mcr = s.mcr) (hc : t.clkEn = s.clkEn) (he : t.eoqf = s.eoqf)
    (hd : t.debugHalt = s.debugHalt) (hz : t.dozeReq = s.dozeReq) : running t = running s := by
  simp [running, hm, hc, he, hd, hz]

@[simp] theorem running_checkSlave : running (checkSlave s) = running s := running_congr (by simp) (by simp) (by simp) (by simp) (by simp)

end Sys2Proof.Machine
end

