-- ==== Sys2Proof/Laws/Bits.lean ====
section
/-! SUPPORT. What the bit-field helpers do to each bit. -/

namespace Sys2Proof.Machine

@[simp] theorem getLsbD_place {len : Nat} (f : BitVec len) (lo i : Nat) :
    (place f lo).getLsbD i = (decide (i < 32) && decide (lo ≤ i) && f.getLsbD (i - lo)) := by
  simp only [place, BitVec.getLsbD_shiftLeft, BitVec.getLsbD_setWidth]
  by_cases h1 : i < 32 <;> by_cases h2 : lo ≤ i <;> simp [h1, h2, Nat.not_lt.mpr, Nat.lt_of_not_le]
  intro; omega

@[simp] theorem getLsbD_placeBit (b : Bool) (k i : Nat) :
    (placeBit b k).getLsbD i = (decide (i < 32) && decide (i = k) && b) := by
  simp only [placeBit, getLsbD_place, BitVec.getLsbD_ofBool]
  by_cases h1 : i < 32 <;> by_cases h : i = k <;> simp [h1, h]
  intro h2 h3; omega

/-! The same of `v[i]`, the form simp gives a bit at a literal position. -/

@[simp] theorem getElem_place {len : Nat} (f : BitVec len) (lo i : Nat) (hi : i < 32) :
    (place f lo)[i] = (decide (lo ≤ i) && f.getLsbD (i - lo)) := by
  rw [← BitVec.getLsbD_eq_getElem, getLsbD_place]; simp [hi]

@[simp] theorem getElem_placeBit (b : Bool) (k i : Nat) (hi : i < 32) : (placeBit b k)[i] = (decide (i = k) && b) := by
  rw [← BitVec.getLsbD_eq_getElem, getLsbD_placeBit]; simp [hi]

/-- A masked word is 0 where every bit of the mask is 0 in the word. -/
theorem and_eq_zero_of_bits {a m : Word} (h : ∀ i < 32, m.getLsbD i = true → a.getLsbD i = false) : a &&& m = 0#32 := by
  apply BitVec.eq_of_getLsbD_eq
  intro i hi
  have := h i hi
  simp only [BitVec.getLsbD_and, BitVec.getLsbD_zero]
  cases hm : m.getLsbD i <;> simp_all

theorem toNat_lowBits (n : Nat) (v : Word) : (lowBits n v).toNat = v.toNat % 2 ^ n := by
  have h := v.isLt
  have := Nat.mod_le v.toNat (2 ^ n)
  simp [lowBits]
  omega

/-- The low n bits of a word are less than 2^n. -/
theorem lowBits_lt (n : Nat) (v : Word) : (lowBits n v).toNat < 2 ^ n := by
  rw [toNat_lowBits]; exact Nat.mod_lt _ (by positivity)

/-- A frame has at most 16 bits (42_clock_transfer_attributes.md R127). -/
theorem frameSize_le (w : Word) : frameSize w ≤ 16 := by
  have := (ctarFmsz w).isLt
  simp [frameSize]; omega

/-- A frame that is not of a reserved size has at least 4 bits. -/
theorem four_le_frameSize {w : Word} (h : frameSizeReserved w = false) : 4 ≤ frameSize w := by
  simp [frameSizeReserved] at h
  simp [frameSize]; omega

/-- A pushed word that selects CTAR0 or CTAR1 is stored as a legal entry (44_fifo_ports.md R160). -/
theorem storedEntry_ok {v : Word} (h : (entryCtas v).toNat < 2) : EntryOk (storedEntry v) := by
  have hc : entryCtas (storedEntry v) = entryCtas v := by
    unfold entryCtas storedEntry field
    apply BitVec.eq_of_getLsbD_eq
    intro i hi
    have : i = 0 ∨ i = 1 ∨ i = 2 := by omega
    rcases this with rfl | rfl | rfl <;> simp
  refine ⟨by rw [hc]; exact h, ?_⟩
  unfold storedEntry
  rw [BitVec.and_assoc]
  simp

end Sys2Proof.Machine
end

