-- ==== Sys2Proof/Laws/Fifo.lean ====
section
/-! SUPPORT. The circular buffer as a queue: what each FIFO operation does to the list of valid entries, and that it stays within
its depth. -/

namespace Sys2Proof.Machine

/-- The depths a FIFO can have: 1 when disabled, 4 otherwise (10_state.md R35). -/
theorem dtx_cases (m : Mcr) : dtx m = 1 ∨ dtx m = 4 := by
  unfold dtx Config.txDepth; split <;> simp

theorem drx_cases (m : Mcr) : drx m = 1 ∨ drx m = 4 := by
  unfold drx Config.rxDepth; split <;> simp

theorem slotIndex_val {depth : Nat} (hd : depth = 1 ∨ depth = 4) (k : Nat) : (slotIndex depth k).val = k % depth := by
  rcases hd with rfl | rfl
  · simp [slotIndex, Fin.ofNat]; omega
  · simp [slotIndex, Fin.ofNat]

theorem slotIndex_mod {depth : Nat} (k : Nat) : slotIndex depth (k % depth) = slotIndex depth k := by
  simp [slotIndex]

/-- Two positions of a buffer closer than its depth are two slots. -/
theorem slotIndex_inj {depth : Nat} (hd : depth = 1 ∨ depth = 4) {i j : Nat} (hij : i < j) (hlt : j < i + depth) :
    slotIndex depth i ≠ slotIndex depth j := by
  intro h
  have h' := congrArg Fin.val h
  rw [slotIndex_val hd, slotIndex_val hd] at h'
  rcases hd with rfl | rfl <;> omega

/-- When a slot is valid (10_state.md R33), as a proposition. -/
theorem valid_iff (depth : Nat) (f : Fifo) (j : Nat) :
    f.valid depth j = true ↔ j < depth ∧ ((j : Int) - f.ptr.val) % depth < f.cnt := by
  simp [Fifo.valid]

/-- The slot of the k-th entry of the queue is valid. -/
theorem valid_of_position {depth : Nat} (hd : depth = 1 ∨ depth = 4) {f : Fifo} {j k : Nat} (hf : FifoOk depth f) (hk : k < f.cnt)
    (hj : j = (f.ptr.val + k) % depth) : f.valid depth j = true := by
  rw [valid_iff]
  obtain ⟨h1, h2⟩ := hf
  rcases hd with rfl | rfl <;> constructor <;> omega

/-- A FIFO's update by a write of MCR: with its count and pointer set to 0 by a flush (`clr`), its pointer set to 0 by a mode change
(`chg`, which is admitted only where it is empty), and its slots kept, it is within its new depth, and what it holds it held. -/
theorem mcrWrite_ok {d d' : Nat} (hd' : d' = 1 ∨ d' = 4) {f g : Fifo} {clr chg : Prop} [Decidable clr] [Decidable chg]
    (hf : FifoOk d f) (hs : g.slot = f.slot) (hc : g.cnt = if clr then 0 else f.cnt)
    (hp : g.ptr = if clr ∨ chg then 0 else f.ptr) (he : chg → f.cnt = 0) (hde : ¬chg → d' = d) :
    FifoOk d' g ∧ ∀ w ∈ g.contents d', w ∈ f.contents d := by
  have h0 : g.cnt = 0 → ∀ w ∈ g.contents d', w ∈ f.contents d := by
    intro h w hw; simp [Fifo.contents, h] at hw
  by_cases h1 : clr
  · simp only [h1, if_true, true_or] at hc hp
    exact ⟨⟨by omega, by rw [hp]; rcases hd' with rfl | rfl <;> simp⟩, h0 hc⟩
  · by_cases h2 : chg
    · simp only [h1, h2, if_true, if_false, or_true] at hc hp
      rw [he h2] at hc
      exact ⟨⟨by omega, by rw [hp]; rcases hd' with rfl | rfl <;> simp⟩, h0 hc⟩
    · simp only [h1, h2, if_false, or_self] at hc hp
      have : g = f := by cases g; cases f; simp_all
      rw [this, hde h2]
      exact ⟨hf, fun _ h => h⟩

@[simp] theorem length_contents (depth : Nat) (f : Fifo) : (f.contents depth).length = f.cnt := by
  simp [Fifo.contents]

@[simp] theorem contents_flush (depth : Nat) (f : Fifo) : f.flush.contents depth = [] := by
  simp [Fifo.contents, Fifo.flush]

/-- A put appends to the queue. -/
theorem contents_put {depth : Nat} (hd : depth = 1 ∨ depth = 4) {f : Fifo} (w : Word) (hc : f.cnt < depth) :
    (f.put depth w).contents depth = f.contents depth ++ [w] := by
  simp only [Fifo.contents, Fifo.put, List.range_succ, List.map_append, List.map_cons, List.map_nil]
  congr 1
  · apply List.map_congr_left
    intro k hk
    have hk : k < f.cnt := by simpa using hk
    have hne := slotIndex_inj hd (i := f.ptr.val + k) (j := f.ptr.val + f.cnt) (by omega) (by omega)
    have : (f.putAt depth).val ≠ (slotIndex depth (f.ptr.val + k)).val := fun h => hne (Fin.ext h.symm)
    simp [Vector.getElem_set_ne _ _ this]
  · simp [Fifo.putAt]

/-- A drop takes the oldest entry off the queue. -/
theorem contents_drop {depth : Nat} (hd : depth = 1 ∨ depth = 4) {f : Fifo} (hp : f.ptr.val < depth) (hc : 0 < f.cnt) :
    f.contents depth = f.front :: (f.drop depth).contents depth := by
  obtain ⟨k, hk⟩ : ∃ k, f.cnt = k + 1 := ⟨f.cnt - 1, by omega⟩
  have h0 : slotIndex depth f.ptr.val = f.ptr := by
    apply Fin.ext; rw [slotIndex_val hd]; exact Nat.mod_eq_of_lt hp
  simp only [Fifo.contents, Fifo.drop, hk, List.range_succ_eq_map, List.map_cons, List.map_map, Nat.add_zero, h0,
    Nat.add_sub_cancel]
  refine congrArg₂ List.cons rfl (List.map_congr_left fun j _ => ?_)
  have : slotIndex depth ((slotIndex depth (f.ptr.val + 1)).val + j) = slotIndex depth (f.ptr.val + (j + 1)) := by
    apply Fin.ext
    rw [slotIndex_val hd, slotIndex_val hd, slotIndex_val hd]
    rcases hd with rfl | rfl <;> omega
  simp [this]

/-- Replacing the newest entry of a full FIFO changes only the last of the queue. -/
theorem contents_replaceNewest {depth : Nat} (hd : depth = 1 ∨ depth = 4) {f : Fifo} (w : Word) (hf : f.cnt = depth) :
    (f.replaceNewest depth w).contents depth = (f.contents depth).dropLast ++ [w] := by
  obtain ⟨k, hk⟩ : ∃ k, f.cnt = k + 1 := ⟨f.cnt - 1, by omega⟩
  simp only [Fifo.contents, Fifo.replaceNewest, hk, List.range_succ, List.map_append, List.map_cons, List.map_nil,
    List.dropLast_concat]
  congr 1
  · apply List.map_congr_left
    intro j hj
    have hj : j < k := by simpa using hj
    have hne := slotIndex_inj hd (i := f.ptr.val + j) (j := f.ptr.val + k) (by omega) (by omega)
    have : (slotIndex depth (f.ptr.val + k)).val ≠ (slotIndex depth (f.ptr.val + j)).val := fun h => hne (Fin.ext h.symm)
    simp [show f.ptr.val + (k + 1) - 1 = f.ptr.val + k by omega, Vector.getElem_set_ne _ _ this]
  · simp [show f.ptr.val + (k + 1) - 1 = f.ptr.val + k by omega]

theorem put_ok {depth : Nat} {f : Fifo} (w : Word) (h : FifoOk depth f) (hc : f.cnt < depth) : FifoOk depth (f.put depth w) :=
  ⟨by simp [Fifo.put]; omega, h.2⟩

theorem drop_ok {depth : Nat} (hd : depth = 1 ∨ depth = 4) {f : Fifo} (h : FifoOk depth f) : FifoOk depth (f.drop depth) := by
  refine ⟨by have := h.1; simp [Fifo.drop]; omega, ?_⟩
  simp only [Fifo.drop, slotIndex_val hd]
  exact Nat.mod_lt _ (by rcases hd with rfl | rfl <;> simp)

theorem flush_ok {depth : Nat} (hd : depth = 1 ∨ depth = 4) (f : Fifo) : FifoOk depth f.flush := by
  rcases hd with rfl | rfl <;> simp [FifoOk, Fifo.flush]

theorem rewind_ok {depth : Nat} (hd : depth = 1 ∨ depth = 4) {f : Fifo} (hc : f.cnt = 0) : FifoOk depth f.rewind := by
  rcases hd with rfl | rfl <;> simp [FifoOk, Fifo.rewind, hc]

theorem replaceNewest_ok {depth : Nat} {f : Fifo} (w : Word) (h : FifoOk depth f) : FifoOk depth (f.replaceNewest depth w) := h

/-- An empty FIFO has an empty queue at every depth. -/
theorem contents_of_empty {depth : Nat} {f : Fifo} (hc : f.cnt = 0) : f.contents depth = [] := by
  simp [Fifo.contents, hc]

end Sys2Proof.Machine
end

