-- ==== Sys2Proof/Laws/Ops.lean ====
section
/-! SUPPORT. One lemma per shared operation: everything it can do. Provers cite these instead of unfolding. -/

namespace Sys2Proof.Machine

theorem toNat_append {m n : Nat} (a : BitVec m) (b : BitVec n) : (a ++ b).toNat = a.toNat * 2 ^ n + b.toNat := by
  rw [BitVec.toNat_append, ← Nat.shiftLeft_add_eq_or_of_lt b.isLt, Nat.shiftLeft_eq]

/-- The page and the offset put together are the base plus the offset (20_memory.md R60). -/
theorem windowAddr_eq (off : Offset) : windowAddr off = Config.spiBase + off.setWidth 32 := by
  unfold windowAddr Config.spiBase
  generalize Config.spiPage = p
  apply BitVec.eq_of_toNat_eq
  have := p.isLt
  have := off.isLt
  have h0 : (0#12).toNat = 0 := rfl
  rw [BitVec.toNat_add, toNat_append, toNat_append, BitVec.toNat_setWidth, h0]
  omega

/-- An address of the window has its offset. -/
theorem windowOffset_windowAddr (off : Offset) : windowOffset (windowAddr off) = some off := by
  have h1 : (windowAddr off).extractLsb' 12 20 = Config.spiPage := by
    unfold windowAddr; generalize Config.spiPage = p
    apply BitVec.eq_of_toNat_eq
    have := p.isLt
    have := off.isLt
    rw [BitVec.extractLsb'_toNat, toNat_append, Nat.shiftRight_eq_div_pow]
    omega
  have h2 : (windowAddr off).extractLsb' 0 12 = off := by
    unfold windowAddr; generalize Config.spiPage = p
    apply BitVec.eq_of_toNat_eq
    have := off.isLt
    rw [BitVec.extractLsb'_toNat, toNat_append, Nat.shiftRight_eq_div_pow]
    omega
  simp [windowOffset, h1, h2]

/-- Reading a slot: its entry where it is valid, else a draw (44_fifo_ports.md sections 3 and 4). -/
theorem answerSlot_eq (depth : Nat) (f : Fifo) (j : Fin 4) (s : State) :
    (f.valid depth j.val = true ∧ answerSlot depth f j s = { s with rdata := f.slot[j] }) ∨
    (f.valid depth j.val = false ∧
      answerSlot depth f j s = { s with rdata := Config.freeWord s.draws, draws := s.draws + 1 }) := by
  unfold answerSlot
  cases h : f.valid depth j.val
  · exact .inr ⟨rfl, rfl⟩
  · exact .inl ⟨rfl, rfl⟩

/-- Reading a slot changes no field but the answer and the count of draws. -/
theorem answerSlot_frame (depth : Nat) (f : Fifo) (j : Fin 4) (s : State) :
    answerSlot depth f j s = { s with rdata := (answerSlot depth f j s).rdata, draws := (answerSlot depth f j s).draws } := by
  rcases answerSlot_eq depth f j s with ⟨_, h⟩ | ⟨_, h⟩ <;> rw [h]

/-- The write of MCR (41_module_control.md R101), field by field. -/
theorem writeMcr_spec (v : Word) (s t : State) (h : writeMcr v s = t) :
    t = { s with mcr := t.mcr, txf := t.txf, rxf := t.rxf, refused := t.refused, broughtUp := t.broughtUp } ∧
    t.mcr = unpackMcr v ∧ t.broughtUp = (s.broughtUp || masterUp (unpackMcr v)) ∧
    t.txf.slot = s.txf.slot ∧ t.rxf.slot = s.rxf.slot ∧
    t.txf.cnt = (if v.getLsbD 11 = true then 0 else s.txf.cnt) ∧
    t.rxf.cnt = (if v.getLsbD 10 = true then 0 else s.rxf.cnt) ∧
    t.txf.ptr = (if v.getLsbD 11 = true ∨ v.getLsbD 13 ≠ s.mcr.disTxf then 0 else s.txf.ptr) ∧
    t.rxf.ptr = (if v.getLsbD 10 = true ∨ v.getLsbD 12 ≠ s.mcr.disRxf then 0 else s.rxf.ptr) ∧
    t.refused = (if running t = true ∧ v.getLsbD 31 = false then some .slaveMode else s.refused) := by
  have hm : (unpackMcr v).mstr = v.getLsbD 31 := rfl
  subst h
  unfold writeMcr rewindIf mcrClrTxf mcrClrRxf mcrDisTxf mcrDisRxf bit
  generalize v.getLsbD 11 = b11, v.getLsbD 10 = b10, v.getLsbD 12 = b12, v.getLsbD 13 = b13, v.getLsbD 31 = b31 at *
  refine ⟨?_, ?_, ?_, ?_, ?_, ?_, ?_, ?_, ?_, ?_⟩
  · conv_lhs => rw [checkSlave_eq]
    cases b11 <;> cases b10 <;> simp [flushTx, flushRx]
  all_goals cases b11 <;> cases b10 <;> simp [Fifo.flush, checkSlave_refused, hm, flushTx, flushRx]
  all_goals split <;> simp_all [Fifo.rewind]

/-- WR_MCR is refused, by one of its reasons and with no field written, or is a write (41_module_control.md R101). -/
theorem execWrMcr_cases (v : Word) (s : State) :
    (∃ r, mcrRefusal v s = some r ∧ execWrMcr v s = .next (refuse r s)) ∨
    (mcrRefusal v s = none ∧ execWrMcr v s = .next (writeMcr v s)) := by
  unfold execWrMcr
  cases h : mcrRefusal v s
  · exact .inr ⟨rfl, rfl⟩
  · exact .inl ⟨_, rfl, rfl⟩

/-- WR_MCR is admitted exactly where no check of R101 fires. -/
theorem mcrRefusal_eq_none_iff (v : Word) (s : State) :
    mcrRefusal v s = none ↔
      mcrDconf v = 0#2 ∧ (mcrDisTxf v = s.mcr.disTxf ∨ s.txf.cnt = 0) ∧ (mcrDisRxf v = s.mcr.disRxf ∨ s.rxf.cnt = 0) ∧
      ((mcrClrTxf v = false ∧ mcrClrRxf v = false) ∨ mcrMdis v = false) := by
  unfold mcrRefusal
  generalize mcrClrTxf v = b11, mcrClrRxf v = b10, mcrMdis v = b14
  split
  · simp_all
  · split
    · simp_all; omega
    · split
      · simp_all; omega
      · have h2 : mcrDisTxf v = s.mcr.disTxf ∨ s.txf.cnt = 0 := by by_cases h : mcrDisTxf v = s.mcr.disTxf <;> simp_all
        have h3 : mcrDisRxf v = s.mcr.disRxf ∨ s.rxf.cnt = 0 := by by_cases h : mcrDisRxf v = s.mcr.disRxf <;> simp_all
        cases b11 <;> cases b10 <;> cases b14 <;> simp_all

end Sys2Proof.Machine
end

