-- ==== Sys2Proof/Laws/Decode.lean ====
section
/-! SUPPORT. The decoder and the encoder: bytes to selectors and words and back, what the table answers for an instruction's own
selector, and what an answered row says about the access. -/

namespace Sys2Proof

/-- The four bytes of a word give it back. -/
theorem wordOfBytes_extract (v : Word) :
    wordOfBytes (v.extractLsb' 0 8) (v.extractLsb' 8 8) (v.extractLsb' 16 8) (v.extractLsb' 24 8) = v := by
  apply BitVec.eq_of_getLsbD_eq
  intro i hi
  simp only [wordOfBytes, BitVec.getLsbD_append, BitVec.getLsbD_extractLsb']
  interval_cases i <;> simp

/-- The word of four bytes has those bytes. -/
theorem bytesOfWord_wordOfBytes (d0 d1 d2 d3 : Byte) : bytesOfWord (wordOfBytes d0 d1 d2 d3) = [d0, d1, d2, d3] := by
  unfold bytesOfWord
  refine congrArg₂ List.cons ?_ (congrArg₂ List.cons ?_ (congrArg₂ List.cons ?_ (congrArg₂ List.cons ?_ rfl))) <;>
  · apply BitVec.eq_of_getLsbD_eq
    intro i hi
    simp only [wordOfBytes, BitVec.getLsbD_append, BitVec.getLsbD_extractLsb']
    interval_cases i <;> simp

/-- The two bytes of a selector give it back, with bit 15 zero. -/
theorem halfOfBytes_selector (sel : Selector) :
    (halfOfBytes (sel.extractLsb' 0 8) ((sel.extractLsb' 8 7).setWidth 8)).getLsbD 15 = false ∧
    (halfOfBytes (sel.extractLsb' 0 8) ((sel.extractLsb' 8 7).setWidth 8)).extractLsb' 0 15 = sel := by
  refine ⟨?_, ?_⟩
  · simp only [halfOfBytes, BitVec.getLsbD_append, BitVec.getLsbD_extractLsb', BitVec.getLsbD_setWidth]
    simp
  · apply BitVec.eq_of_getLsbD_eq
    intro i hi
    simp only [halfOfBytes, BitVec.getLsbD_append, BitVec.getLsbD_extractLsb', BitVec.getLsbD_setWidth]
    interval_cases i <;> simp

/-- Two bytes with bit 15 zero are the bytes of the selector they hold. -/
theorem bytesOfSelector_halfOfBytes {b0 b1 : Byte} (h : (halfOfBytes b0 b1).getLsbD 15 = false) :
    bytesOfSelector ((halfOfBytes b0 b1).extractLsb' 0 15) = [b0, b1] := by
  have h7 : b1.getLsbD 7 = false := by
    simp only [halfOfBytes, BitVec.getLsbD_append] at h; simpa using h
  unfold bytesOfSelector
  refine congrArg₂ List.cons ?_ (congrArg₂ List.cons ?_ rfl)
  · apply BitVec.eq_of_getLsbD_eq
    intro i hi
    simp only [halfOfBytes, BitVec.getLsbD_append, BitVec.getLsbD_extractLsb']
    interval_cases i <;> simp
  · apply BitVec.eq_of_getLsbD_eq
    intro i hi
    simp only [halfOfBytes, BitVec.getLsbD_append, BitVec.getLsbD_extractLsb', BitVec.getLsbD_setWidth]
    interval_cases i <;> simp
    simpa using h7

/-- The decoder on the bytes of a selector and what follows them. -/
theorem decodeBytes_selector (sel : Selector) (rest : List Byte) :
    decodeBytes (bytesOfSelector sel ++ rest) =
      if sel.getLsbD 12 then
        match rest with
        | d0 :: d1 :: d2 :: d3 :: rest' => decodeWithRest sel (wordOfBytes d0 d1 d2 d3) rest'
        | _ => .truncated
      else decodeWithRest sel 0#32 rest := by
  obtain ⟨h1, h2⟩ := halfOfBytes_selector sel
  show decodeBytes ((sel.extractLsb' 0 8) :: ((sel.extractLsb' 8 7).setWidth 8) :: rest) = _
  simp only [decodeBytes, h1, h2]; rfl

/-- The access of a selector has that selector. -/
theorem selector_accessOfSelector (sel : Selector) (v : Word) : (accessOfSelector sel v).selector = sel := by
  have hsz : ∀ c : BitVec 2, sizeCode (sizeOfCode c) = c := by decide
  apply BitVec.eq_of_getLsbD_eq
  intro i hi
  simp only [BusAccess.selector, accessOfSelector, hsz, BitVec.getLsbD_append, BitVec.getLsbD_extractLsb',
    BitVec.getLsbD_ofBool]
  interval_cases i <;> simp

/-- Bit W of a selector (30_encoding.md R80). -/
theorem selector_write (a : BusAccess) : a.selector.getLsbD 12 = a.write := by
  simp only [BusAccess.selector, BitVec.getLsbD_append, BitVec.getLsbD_ofBool]; simp

/-- The field OFF of a selector (30_encoding.md R80). -/
theorem selector_off (a : BusAccess) : a.selector.extractLsb' 0 12 = a.off := by
  apply BitVec.eq_of_getLsbD_eq
  intro i hi
  simp only [BusAccess.selector, BitVec.getLsbD_append, BitVec.getLsbD_extractLsb']
  interval_cases i <;> simp

/-- The field SZ of a selector (30_encoding.md R80). -/
theorem selector_size (a : BusAccess) : a.selector.extractLsb' 13 2 = sizeCode a.size := by
  apply BitVec.eq_of_getLsbD_eq
  intro i hi
  simp only [BusAccess.selector, BitVec.getLsbD_append, BitVec.getLsbD_extractLsb']
  interval_cases i <;> simp

/-- SZ is 10 exactly for 4 bytes. -/
theorem sizeCode_eq_two (n : Nat) : sizeCode n = 0b10#2 ↔ n = 4 := by
  unfold sizeCode
  constructor
  · intro h; split at h <;> first | rfl | exact absurd h (by decide)
  · rintro rfl; rfl

/-- The table answers every instruction for its own selector and data word. -/
theorem decodeSelector_opcode (i : Instr) : decodeSelector i.opcode (i.operand.getD 0#32) = some i := by
  cases i <;> simp [decodeSelector, opcodeTable, opcodeRow, List.find?, Instr.opcode, Instr.operand]

/-- Bit W of an instruction's selector says whether it has a data word. -/
theorem opcode_write (i : Instr) : i.opcode.getLsbD 12 = i.operand.isSome := by
  cases i <;> simp [Instr.opcode, Instr.operand]

/-- An instruction's own selector and data word decode to it, whatever follows. -/
theorem decodeWithRest_opcode (i : Instr) (rest : List Byte) :
    decodeWithRest i.opcode (i.operand.getD 0#32) rest = .row i rest := by
  have h : decodeAccess (accessOfSelector i.opcode (i.operand.getD 0#32)) = .row i := by
    have hd : (accessOfSelector i.opcode (i.operand.getD 0#32)).data = i.operand.getD 0#32 := rfl
    rw [decodeAccess, selector_accessOfSelector, hd, decodeSelector_opcode]
  simp [decodeWithRest, h]

/-- Each row of the table gives an instruction with that row's selector, and the data word where W is 1. -/
theorem opcodeTable_rows : ∀ r ∈ opcodeTable, r.mask = 0x7FFF#15 ∧
    ∀ v, (r.form v).opcode = r.value ∧ (r.form v).operand = if r.value.getLsbD 12 then some v else none := by
  simp [opcodeTable, opcodeRow, Instr.opcode, Instr.operand]

/-- What the table answers has the selector that was looked up (30_encoding.md R82). -/
theorem of_decodeSelector {sel : Selector} {v : Word} {i : Instr} (h : decodeSelector sel v = some i) :
    i.opcode = sel ∧ i.operand = if sel.getLsbD 12 then some v else none := by
  unfold decodeSelector at h
  obtain ⟨r, hr, rfl⟩ := Option.map_eq_some_iff.1 h
  have hm := List.mem_of_find?_eq_some hr
  have hp := List.find?_some hr
  obtain ⟨h1, h2⟩ := opcodeTable_rows r hm
  have h3 : sel = r.value := by
    have : sel &&& 0x7FFF#15 = r.value := by simpa [h1] using hp
    rw [← this]
    apply BitVec.eq_of_getLsbD_eq
    intro i hi
    interval_cases i <;> simp
  rw [h3]; exact h2 v

/-- An access that decodes to a row has that row's selector. -/
theorem of_decodeAccess {a : BusAccess} {i : Instr} (h : decodeAccess a = .row i) :
    i.opcode = a.selector ∧ i.operand = if a.write then some a.data else none := by
  rw [← selector_write]
  unfold decodeAccess at h
  split at h
  · cases h; exact of_decodeSelector (by assumption)
  · cases h

/-- An access of a mapped offset, 4 bytes wide, is a row (30_encoding.md R83). -/
theorem decodeAccess_mapped {a : BusAccess} (hs : a.size = 4) (ho : a.off ∈ mappedOffsets) : ∃ i, decodeAccess a = .row i := by
  have h : ∀ off ∈ mappedOffsets, ∀ w : Bool, ∃ r ∈ opcodeTable, r.value = (0b10#2 ++ BitVec.ofBool w) ++ off := by decide
  obtain ⟨r, hr, hv⟩ := h a.off ho a.write
  have hsel : a.selector = r.value := by rw [hv, BusAccess.selector, hs]; rfl
  obtain ⟨h1, h2⟩ := opcodeTable_rows r hr
  have h3 := decodeSelector_opcode (r.form a.data)
  rw [(h2 a.data).1, ← hsel] at h3
  have h4 : (decodeSelector a.selector a.data).isSome = true := by
    have : (decodeSelector a.selector ((r.form a.data).operand.getD 0#32)).isSome = true := by rw [h3]; rfl
    simpa [decodeSelector] using this
  obtain ⟨i, hi⟩ := Option.isSome_iff_exists.1 h4
  exact ⟨i, by simp [decodeAccess, hi]⟩

/-- The fields of an instruction's access are those of its selector (30_encoding.md R80), at a mapped offset. -/
theorem access_fields (i : Instr) :
    i.access = ⟨i.opcode.getLsbD 12, 4, i.opcode.extractLsb' 0 12, i.operand.getD 0#32⟩ ∧
    i.opcode.extractLsb' 13 2 = 0b10#2 ∧ i.access.off ∈ mappedOffsets := by
  cases i <;>
    simp [Instr.access, Instr.opcode, Instr.operand, BusAccess.rd, BusAccess.wr, mappedOffsets, Off.mcr, Off.tcr, Off.ctar0,
      Off.ctar1, Off.sr, Off.rser, Off.pushr, Off.popr, Off.txfr0, Off.txfr1, Off.txfr2, Off.txfr3, Off.rxfr0, Off.rxfr1,
      Off.rxfr2, Off.rxfr3]

/-- A row's access is 4 bytes wide, at a mapped offset, and the access that was decoded (a read's data word is 0). -/
theorem access_of_decodeAccess {a : BusAccess} {i : Instr} (h : decodeAccess a = .row i) :
    a.size = 4 ∧ a.off ∈ mappedOffsets ∧ i.access = { a with data := if a.write then a.data else 0#32 } := by
  obtain ⟨h1, h2⟩ := of_decodeAccess h
  obtain ⟨hf, hsz, hoff⟩ := access_fields i
  rw [h1, selector_size, sizeCode_eq_two] at hsz
  have hi : i.access = { a with data := if a.write then a.data else 0#32 } := by
    rw [hf, h1, h2, selector_write, selector_off, ← hsz]
    cases a.write <;> rfl
  rw [hi] at hoff
  exact ⟨hsz, hoff, hi⟩

/-- The mapped offsets are the word-aligned offsets outside the reserved ranges of 20_memory.md R67. -/
theorem mem_mappedOffsets (off : Offset) :
    off ∈ mappedOffsets ↔ off.toNat % 4 = 0 ∧
      ¬(off.toNat = 0x004 ∨ (0x014 ≤ off.toNat ∧ off.toNat ≤ 0x028) ∨ (0x04C ≤ off.toNat ∧ off.toNat ≤ 0x078) ∨
        0x08C ≤ off.toNat) := by
  constructor
  · revert off; decide
  · rintro ⟨h1, h2⟩
    have h3 : ∀ n < 0x08C, n % 4 = 0 → ¬(n = 0x004 ∨ (0x014 ≤ n ∧ n ≤ 0x028) ∨ (0x04C ≤ n ∧ n ≤ 0x078)) →
        BitVec.ofNat 12 n ∈ mappedOffsets := by decide
    have := h3 off.toNat (by omega) h1 (by omega)
    simpa using this

end Sys2Proof
end

