-- ==== Sys2Proof/Laws/Step.lean ====
section
/-! SUPPORT. What a step can be: the answer of a marked state, or the move of the agent whose turn it is. -/

namespace Sys2Proof.Machine

/-- A clean state moves. -/
theorem step_clean {s : State} (h : Clean s) : step s = move s := by
  obtain ⟨h1, h2⟩ := h
  simp [step, guarded, h1, h2]

/-- A step that answers a next state is a move of a clean state. -/
theorem step_next {s t : State} (h : step s = .next t) : Clean s ∧ move s = .next t := by
  unfold step guarded at h
  split at h
  · cases h
  · split at h
    · cases h
    · exact ⟨⟨by assumption, by assumption⟩, h⟩

/-- A move is the turn at the head of the list, taken, or the default turn. -/
theorem move_cases (s : State) :
    (∃ t ts, s.turns = t :: ts ∧ move s = takeTurn t { s with turns := ts }) ∨
    (s.turns = [] ∧ move s = takeTurn (defaultTurn s) s) := by
  unfold move
  cases h : s.turns with
  | nil => exact .inr ⟨rfl, rfl⟩
  | cons t ts => exact .inl ⟨t, ts, rfl, rfl⟩

/-- A clean state whose next turn is the host's runs the host's next operation. -/
theorem step_host {s : State} {op : HostOp} {ops : List HostOp} {ts : List Turn} (hc : Clean s) (ht : s.turns = .host :: ts)
    (ho : s.host.todo = op :: ops) : step s = hostOp op ops { s with turns := ts, host := { s.host with todo := ops } } := by
  rw [step_clean hc]
  simp [move, ht, takeTurn, hostMove, ho, setTodo]

/-- A clean state whose next turn is the sequencer's makes its move. -/
theorem step_sequencer {s : State} {ts : List Turn} (hc : Clean s) (ht : s.turns = .sequencer :: ts) :
    step s = .next (sequencerMove { s with turns := ts }) := by
  rw [step_clean hc]
  simp [move, ht, takeTurn]

theorem frameEndEnabled_iff (s : State) : frameEndEnabled s = true ↔ s.seq.busy = true ∧ s.clkEn = true ∧ Clean s := by
  simp [frameEndEnabled, Clean, and_assoc]

theorem frameStartEnabled_iff (s : State) :
    frameStartEnabled s = true ↔
      running s = true ∧ s.mcr.mstr = true ∧ s.seq.busy = false ∧ 0 < s.txf.cnt ∧ Clean s := by
  simp [frameStartEnabled, Clean, and_assoc]

/-- One move of the sequencer: FrameEnd, FrameStart, or nothing. -/
theorem sequencerMove_cases (s : State) :
    (frameEndEnabled s = true ∧ sequencerMove s = frameEnd (Config.freeWord s.draws) { s with draws := s.draws + 1 }) ∨
    (frameEndEnabled s = false ∧ frameStartEnabled s = true ∧ sequencerMove s = frameStart s) ∨
    (frameEndEnabled s = false ∧ frameStartEnabled s = false ∧ sequencerMove s = s) := by
  unfold sequencerMove
  cases h1 : frameEndEnabled s
  · cases h2 : frameStartEnabled s
    · exact .inr (.inr ⟨rfl, rfl, rfl⟩)
    · exact .inr (.inl ⟨rfl, rfl, rfl⟩)
  · exact .inl ⟨rfl, rfl⟩

/-- FrameStart: refused with nothing else changed, or the launch of the oldest entry with the attribute register it selects. -/
theorem frameStart_cases (s : State) :
    (∃ r, frameStart s = refuse r s) ∨
    (∃ w, selectCtar s.txf.front s = some w ∧ frameSizeReserved w = false ∧ frameStart s = launchFrame s.txf.front w s) := by
  unfold frameStart
  cases h : selectCtar s.txf.front s with
  | none => exact .inl ⟨_, rfl⟩
  | some w =>
    cases h2 : frameSizeReserved w
    · exact .inr ⟨w, rfl, h2, by simp [h2]⟩
    · exact .inl ⟨_, by simp [h2]; rfl⟩

/-- The RX FIFO after a frame that found it full: unchanged, or with its newest entry replaced (45_transfer_sequencer.md R186). -/
theorem overflowRxf_cases (r : Word) (s : State) :
    (¬(s.mcr.rooe = true ∧ Config.rooePolicy = .replaceNewest) ∧ overflowRxf r s = s.rxf) ∨
    (s.mcr.rooe = true ∧ Config.rooePolicy = .replaceNewest ∧ overflowRxf r s = s.rxf.replaceNewest (drx s.mcr) r) := by
  unfold overflowRxf
  cases h : s.mcr.rooe
  · simp
  · cases h2 : Config.rooePolicy <;> simp

/-- For any machine, a run goes on from the next state of its first step. -/
theorem core_run_succ (M : Host.Core) {s t : M.State} (k : Nat) (h : M.step s = .next t) : M.run (k + 1) s = M.run k t := by
  rw [Host.Core.run, h]

/-- For any machine, a run that ends in a next state began with a step to one. -/
theorem of_core_run_succ (M : Host.Core) {s t : M.State} {k : Nat} (h : M.run (k + 1) s = .next t) :
    ∃ u, M.step s = .next u ∧ M.run k u = .next t := by
  rw [Host.Core.run] at h
  cases hs : M.step s with
  | next u => rw [hs] at h; exact ⟨u, rfl, h⟩
  | fault f => rw [hs] at h; cases h
  | refused r => rw [hs] at h; cases h

/-- A run goes on from the next state of its first step. -/
theorem run_succ {s t : State} (k : Nat) (h : step s = .next t) : Sys2Proof.core.run (k + 1) s = Sys2Proof.core.run k t :=
  core_run_succ Sys2Proof.core k h

/-- A run that ends in a next state began with a step to one. -/
theorem of_run_succ {s t : State} {k : Nat} (h : Sys2Proof.core.run (k + 1) s = .next t) :
    ∃ u, step s = .next u ∧ Sys2Proof.core.run k u = .next t :=
  of_core_run_succ Sys2Proof.core h

/-- With the clock on, an access that decodes to a row runs it. -/
theorem busAccess_row {a : BusAccess} {s : State} {i : Instr} (hk : s.clkEn = true) (hi : decodeAccess a = .row i) :
    busAccess a s = exec i s := by
  simp [busAccess, hk, hi]

/-- An access answers a next state, whatever it is. -/
theorem busAccess_cases (a : BusAccess) (s : State) :
    (∃ f, busAccess a s = .next (raiseFault f s)) ∨
    (s.clkEn = true ∧ ∃ i, decodeAccess a = .row i ∧ busAccess a s = exec i s) := by
  unfold busAccess
  cases h : s.clkEn
  · exact .inl ⟨_, rfl⟩
  · cases h2 : decodeAccess a with
    | row i => exact .inr ⟨rfl, i, rfl, rfl⟩
    | illegal r => exact .inl ⟨_, rfl⟩

/-- Every instruction answers a next state: what goes wrong in it is a mark of that state (60_exceptions.md R220, R227). -/
theorem exec_next (i : Instr) (s : State) : ∃ t, exec i s = .next t := by
  cases i
  case wrMcr v => rcases execWrMcr_cases v s with ⟨_, _, h⟩ | ⟨_, h⟩ <;> exact ⟨_, h⟩
  case wrPushr v => simp only [exec, execWrPushr]; (repeat' split) <;> exact ⟨_, rfl⟩
  case rdPopr => simp only [exec, execRdPopr]; (repeat' split) <;> exact ⟨_, rfl⟩
  all_goals exact ⟨_, rfl⟩

/-- Every access answers a next state. -/
theorem busAccess_next (a : BusAccess) (s : State) : ∃ t, busAccess a s = .next t := by
  rcases busAccess_cases a s with ⟨f, h⟩ | ⟨_, i, _, h⟩
  · exact ⟨_, h⟩
  · rw [h]; exact exec_next i s

/-- A read whose answer goes to a host register: the register takes the answer, unless the access left a mark. -/
theorem deliverTo_busAccess (r : HostReg) (a : BusAccess) (s : State) :
    ∃ u, busAccess a s = .next u ∧ (Clean u → deliverTo (some r) (busAccess a s) = .next (setHostReg r u.rdata u)) ∧
      (¬Clean u → deliverTo (some r) (busAccess a s) = .next u) := by
  obtain ⟨u, hu⟩ := busAccess_next a s
  have hs : stopped u = true ↔ ¬Clean u := by
    unfold stopped Clean; cases u.faults <;> cases u.refused <;> simp
  refine ⟨u, hu, fun h => ?_, fun h => ?_⟩ <;> rw [hu]
  · have : stopped u = false := by simpa using mt hs.1 (not_not.2 h)
    simp [deliverTo, deliver, this]
  · simp [deliverTo, deliver, hs.2 h]

/-! The conditions of a poll (30_encoding.md R92). -/

@[simp] theorem PollCond.holds_atMost (k n : Nat) : (PollCond.atMost k).holds n = true ↔ n ≤ k := by simp [PollCond.holds]
@[simp] theorem PollCond.holds_greater (k n : Nat) : (PollCond.greater k).holds n = true ↔ k < n := by simp [PollCond.holds]
@[simp] theorem PollCond.holds_equal (k n : Nat) : (PollCond.equal k).holds n = true ↔ n = k := by simp [PollCond.holds]
@[simp] theorem PollCond.holds_differs (k n : Nat) : (PollCond.differs k).holds n = true ↔ n ≠ k := by simp [PollCond.holds]
@[simp] theorem PollCond.holds_both (c d : PollCond) (n : Nat) : (PollCond.both c d).holds n = true ↔ c.holds n = true ∧ d.holds n = true := by
  simp [PollCond.holds]
@[simp] theorem PollCond.holds_either (c d : PollCond) (n : Nat) :
    (PollCond.either c d).holds n = true ↔ c.holds n = true ∨ d.holds n = true := by
  simp [PollCond.holds]

end Sys2Proof.Machine
end

