-- ==== Sys2Proof/Laws/Exec.lean ====
section
/-! SUPPORT. What any access can change, and what the invariant of Safety rests on. -/

namespace Sys2Proof.Machine

/-- What an access can change: registers, flags, FIFOs, marks, the memory of bring-up and the answer, and nothing else; and it removes no fault record. -/
def AccessFrame (s t : State) : Prop :=
  t = { s with mcr := t.mcr, tcnt := t.tcnt, ctar0 := t.ctar0, ctar1 := t.ctar1, rser := t.rser, txf := t.txf, rxf := t.rxf,
               tcf := t.tcf, eoqf := t.eoqf, tfuf := t.tfuf, rfof := t.rfof, faults := t.faults, refused := t.refused,
               broughtUp := t.broughtUp, rdata := t.rdata, draws := t.draws } ∧
  s.faults <+: t.faults

theorem accessFrame_answer (v : Word) (s : State) : AccessFrame s (answer v s) := ⟨rfl, List.prefix_refl _⟩

theorem accessFrame_raiseFault (f : Fault) (s : State) : AccessFrame s (raiseFault f s) := ⟨rfl, List.prefix_append _ _⟩

theorem accessFrame_refuse (r : Refusal) (s : State) : AccessFrame s (refuse r s) := ⟨rfl, List.prefix_refl _⟩

theorem accessFrame_answerSlot (depth : Nat) (f : Fifo) (j : Fin 4) (s : State) : AccessFrame s (answerSlot depth f j s) := by
  rw [answerSlot_frame]; exact ⟨rfl, List.prefix_refl _⟩

theorem accessFrame_writeMcr (v : Word) (s : State) : AccessFrame s (writeMcr v s) := by
  rw [(writeMcr_spec v s _ rfl).1]; exact ⟨rfl, List.prefix_refl _⟩

theorem accessFrame_wrMcr {v : Word} {s t : State} (h : execWrMcr v s = .next t) : AccessFrame s t := by
  rcases execWrMcr_cases v s with ⟨r, _, h'⟩ | ⟨_, h'⟩ <;> rw [h'] at h <;> cases h
  · exact accessFrame_refuse r s
  · exact accessFrame_writeMcr v s

theorem accessFrame_wrSr (v : Word) (s : State) : AccessFrame s (checkSlave (clearFlags v s)) := by
  rw [checkSlave_eq]; exact ⟨rfl, List.prefix_refl _⟩

theorem accessFrame_wrPushr {v : Word} {s t : State} (h : execWrPushr v s = .next t) : AccessFrame s t := by
  unfold execWrPushr at h
  (repeat' split at h) <;> cases h
  · exact accessFrame_refuse _ s
  · exact accessFrame_refuse _ s
  · exact accessFrame_refuse _ s
  · exact accessFrame_raiseFault _ s
  · exact ⟨rfl, List.prefix_refl _⟩

theorem accessFrame_rdPopr {s t : State} (h : execRdPopr s = .next t) : AccessFrame s t := by
  unfold execRdPopr at h
  (repeat' split at h) <;> cases h
  · exact accessFrame_refuse _ s
  · exact ⟨rfl, List.prefix_refl _⟩
  · exact ⟨rfl, List.prefix_refl _⟩

/-- No access changes more than its frame. -/
theorem exec_frame (i : Instr) (s t : State) (h : exec i s = .next t) : AccessFrame s t := by
  cases i
  case wrMcr v => exact accessFrame_wrMcr h
  case wrSr v => cases h; exact accessFrame_wrSr v s
  case wrPushr v => exact accessFrame_wrPushr h
  case rdPopr => exact accessFrame_rdPopr h
  case rdMcr | rdTcr | rdCtar0 | rdCtar1 | rdSr | rdRser => cases h; exact accessFrame_answer _ s
  case rdTxfr0 | rdTxfr1 | rdTxfr2 | rdTxfr3 | rdRxfr0 | rdRxfr1 | rdRxfr2 | rdRxfr3 =>
    cases h; exact accessFrame_answerSlot _ _ _ s
  case wrPopr | wrTxfr0 | wrTxfr1 | wrTxfr2 | wrTxfr3 | wrRxfr0 | wrRxfr1 | wrRxfr2 | wrRxfr3 =>
    cases h; exact accessFrame_raiseFault _ s
  case wrTcr | wrCtar0 | wrCtar1 | wrRser | rdPushr => cases h; exact ⟨rfl, List.prefix_refl _⟩

/-- The invariant reads nothing but these parts of the state. -/
theorem inv_congr {s t : State} (h : Inv s) (h1 : t.mcr = s.mcr) (h2 : t.txf = s.txf) (h3 : t.rxf = s.rxf) (h4 : t.seq = s.seq)
    (h5 : t.pcsAct = s.pcsAct) (h6 : t.faults = s.faults) (h7 : t.refused = s.refused) (h8 : running t = running s)
    (h9 : t.trace = s.trace) (h10 : t.broughtUp = s.broughtUp) : Inv t := by
  obtain ⟨a, b, c, d, e, f, g, u, i, j⟩ := h
  refine ⟨?_, ?_, ?_, ?_, ?_, ?_, ?_, ?_, ?_, ?_⟩ <;> simp only [h1, h2, h3, h4, h5, h6, h7, h8, h9, h10, markCount] <;> assumption

theorem inv_raiseFault {s : State} (hc : Clean s) (h : Inv s) (f : Fault) : Inv (raiseFault f s) := by
  obtain ⟨a, b, c, d, e, g, m, u, i, _⟩ := h
  exact ⟨a, b, c, d, e, g, m, u, i, by simp [markCount, hc.1, hc.2]⟩

theorem inv_refuse {s : State} (hc : Clean s) (h : Inv s) (r : Refusal) : Inv (refuse r s) := by
  obtain ⟨a, b, c, d, e, g, m, u, i, _⟩ := h
  refine ⟨a, b, c, d, e, g, ?_, u, i, by simp [markCount, hc.1]⟩
  intro h1 h2
  have := m h1 h2
  rw [hc.2] at this; cases this

theorem inv_answer {s : State} (h : Inv s) (v : Word) : Inv (answer v s) :=
  inv_congr h rfl rfl rfl rfl rfl rfl rfl rfl rfl rfl

/-- One more event on the wire. -/
theorem traceBusy_append {l : List WireEvent} {b : Bool} (e : WireEvent) (h : traceBusy l = some b) :
    traceBusy (l ++ [e]) = traceStep (some b) e := by
  unfold traceBusy at *
  rw [List.foldl_append, h]; rfl

end Sys2Proof.Machine
end

