-- ==== Sys2Proof/Laws/PerInstr.lean ====
section
/-! SUPPORT. The statements made per instruction, one lemma per constructor. -/

namespace Sys2Proof.Laws.LegalAccess

/-- The access of an instruction is a legal encoding (30_encoding.md R81), and its selector is its row's match value (R83). -/
def Statement (i : Instr) : Prop := i.WellFormed = true ∧ i.access.selector = i.opcode

/-- Whether a write is legal, and its selector, do not depend on its data word. -/
theorem legal_wr {off : Offset} {sel : Selector} (hw : (BusAccess.wr off 0#32).WellFormed = true)
    (hs : (BusAccess.wr off 0#32).selector = sel) (v : Word) :
    (BusAccess.wr off v).WellFormed = true ∧ (BusAccess.wr off v).selector = sel :=
  ⟨hw, hs⟩

theorem rdMcr : Statement .rdMcr := ⟨rfl, rfl⟩
theorem wrMcr (v : Word) : Statement (.wrMcr v) :=
  legal_wr (off := Off.mcr) (sel := 0x5000#15) (by decide) (by decide) v
theorem rdTcr : Statement .rdTcr := ⟨rfl, rfl⟩
theorem wrTcr (v : Word) : Statement (.wrTcr v) :=
  legal_wr (off := Off.tcr) (sel := 0x5008#15) (by decide) (by decide) v
theorem rdCtar0 : Statement .rdCtar0 := ⟨rfl, rfl⟩
theorem wrCtar0 (v : Word) : Statement (.wrCtar0 v) :=
  legal_wr (off := Off.ctar0) (sel := 0x500C#15) (by decide) (by decide) v
theorem rdCtar1 : Statement .rdCtar1 := ⟨rfl, rfl⟩
theorem wrCtar1 (v : Word) : Statement (.wrCtar1 v) :=
  legal_wr (off := Off.ctar1) (sel := 0x5010#15) (by decide) (by decide) v
theorem rdSr : Statement .rdSr := ⟨rfl, rfl⟩
theorem wrSr (v : Word) : Statement (.wrSr v) :=
  legal_wr (off := Off.sr) (sel := 0x502C#15) (by decide) (by decide) v
theorem rdRser : Statement .rdRser := ⟨rfl, rfl⟩
theorem wrRser (v : Word) : Statement (.wrRser v) :=
  legal_wr (off := Off.rser) (sel := 0x5030#15) (by decide) (by decide) v
theorem wrPushr (v : Word) : Statement (.wrPushr v) :=
  legal_wr (off := Off.pushr) (sel := 0x5034#15) (by decide) (by decide) v
theorem rdPushr : Statement .rdPushr := ⟨rfl, rfl⟩
theorem rdPopr : Statement .rdPopr := ⟨rfl, rfl⟩
theorem wrPopr (v : Word) : Statement (.wrPopr v) :=
  legal_wr (off := Off.popr) (sel := 0x5038#15) (by decide) (by decide) v
theorem rdTxfr0 : Statement .rdTxfr0 := ⟨rfl, rfl⟩
theorem rdTxfr1 : Statement .rdTxfr1 := ⟨rfl, rfl⟩
theorem rdTxfr2 : Statement .rdTxfr2 := ⟨rfl, rfl⟩
theorem rdTxfr3 : Statement .rdTxfr3 := ⟨rfl, rfl⟩
theorem wrTxfr0 (v : Word) : Statement (.wrTxfr0 v) :=
  legal_wr (off := Off.txfr0) (sel := 0x503C#15) (by decide) (by decide) v
theorem wrTxfr1 (v : Word) : Statement (.wrTxfr1 v) :=
  legal_wr (off := Off.txfr1) (sel := 0x5040#15) (by decide) (by decide) v
theorem wrTxfr2 (v : Word) : Statement (.wrTxfr2 v) :=
  legal_wr (off := Off.txfr2) (sel := 0x5044#15) (by decide) (by decide) v
theorem wrTxfr3 (v : Word) : Statement (.wrTxfr3 v) :=
  legal_wr (off := Off.txfr3) (sel := 0x5048#15) (by decide) (by decide) v
theorem rdRxfr0 : Statement .rdRxfr0 := ⟨rfl, rfl⟩
theorem rdRxfr1 : Statement .rdRxfr1 := ⟨rfl, rfl⟩
theorem rdRxfr2 : Statement .rdRxfr2 := ⟨rfl, rfl⟩
theorem rdRxfr3 : Statement .rdRxfr3 := ⟨rfl, rfl⟩
theorem wrRxfr0 (v : Word) : Statement (.wrRxfr0 v) :=
  legal_wr (off := Off.rxfr0) (sel := 0x507C#15) (by decide) (by decide) v
theorem wrRxfr1 (v : Word) : Statement (.wrRxfr1 v) :=
  legal_wr (off := Off.rxfr1) (sel := 0x5080#15) (by decide) (by decide) v
theorem wrRxfr2 (v : Word) : Statement (.wrRxfr2 v) :=
  legal_wr (off := Off.rxfr2) (sel := 0x5084#15) (by decide) (by decide) v
theorem wrRxfr3 (v : Word) : Statement (.wrRxfr3 v) :=
  legal_wr (off := Off.rxfr3) (sel := 0x5088#15) (by decide) (by decide) v

end Sys2Proof.Laws.LegalAccess
end

