-- ==== Sys2Proof/Tests/Slice0.lean ====
section
/-! SUPPORT. Small tests of the model, with expected results taken from spec/ (30_encoding.md R80 to R83 for the words,
95_test_vectors.md for the values), and for every obligation with hypotheses a state and operands that meet them. -/

namespace Sys2Proof.Tests

open Sys2Proof.Machine

/-! ## Helpers -/

/-- A field of the state an outcome goes on with. -/
def seen {α : Type} (f : State → α) (o : Host.Outcome State Fault Refusal) : Option α :=
  match o with
  | .next s => some (f s)
  | _ => none

/-- RESET with the clock gate on. -/
def clocked : State := { State.reset with clkEn := true }

/-- READY (95_test_vectors.md): MCR 0x803F0000, CTAR0 0x38000000. -/
def ready : State :=
  { clocked with
    mcr := { Mcr.reset with mstr := true, pcsis := 0b111111#6, mdis := false, halt := false }
    ctar0 := 0x38000000#32
    broughtUp := true }

/-- A FIFO with these entries, oldest in slot 0. -/
def fifoOf (ws : List Word) : Fifo := ws.foldl (fun f w => f.put 4 w) Fifo.reset

/-- READY with these TX and RX entries. -/
def filled (tx rx : List Word) : State := { ready with txf := fifoOf tx, rxf := fifoOf rx }

/-- READY with the frame of entry e in flight. -/
def inFlight (e : Word) : State := frameStart (filled [e] [])

/-- The same state with one turn listed. -/
def onTurn (t : Turn) (s : State) : State := { s with turns := [t] }

/-- The same state on the host's turn, with these operations to do. -/
def doing (ops : List HostOp) (s : State) : State := { s with turns := [.host], host := { s.host with todo := ops } }

/-- Four entries: a full FIFO. -/
def four : List Word := [0x80010000#32, 0x80010001#32, 0x80010002#32, 0x80010003#32]

/-! ## Well-formedness: one ill-formed access for each check (20_memory.md R62, R63, R67) -/

theorem test_wf_refuses_width :
    BusAccess.WellFormed ⟨false, 2, Off.mcr, 0#32⟩ = false ∧ BusAccess.alignedOk ⟨false, 2, Off.mcr, 0#32⟩ = true ∧
    BusAccess.mappedOk ⟨false, 2, Off.mcr, 0#32⟩ = true := by decide
theorem test_wf_refuses_misaligned :
    BusAccess.WellFormed ⟨false, 4, 0x002#12, 0#32⟩ = false ∧ BusAccess.widthOk ⟨false, 4, 0x002#12, 0#32⟩ = true ∧
    BusAccess.alignedOk ⟨false, 4, 0x002#12, 0#32⟩ = false := by decide
theorem test_wf_refuses_unmapped :
    BusAccess.WellFormed ⟨true, 4, 0x04C#12, 0#32⟩ = false ∧ BusAccess.widthOk ⟨true, 4, 0x04C#12, 0#32⟩ = true ∧
    BusAccess.alignedOk ⟨true, 4, 0x04C#12, 0#32⟩ = true := by decide
theorem test_wf_admits_ends : (BusAccess.rd 0x000#12).WellFormed = true ∧ (BusAccess.wr 0x088#12 7#32).WellFormed = true := by
  decide

/-! ## Decoding: each row's selector written out bit by bit, SZ, W, OFF (30_encoding.md R80, R83) -/

theorem test_decode_rdMcr : decodeTableWord 16 0b100000000000000 = some .rdMcr := by decide
theorem test_decode_wrMcr : decodeTableWord 48 (0x8001F234 * 2 ^ 16 + 0b101000000000000) = some (.wrMcr 0x8001F234#32) := by decide
theorem test_decode_rdTcr : decodeTableWord 16 0b100000000001000 = some .rdTcr := by decide
theorem test_decode_wrTcr : decodeTableWord 48 (0x8001F234 * 2 ^ 16 + 0b101000000001000) = some (.wrTcr 0x8001F234#32) := by decide
theorem test_decode_rdCtar0 : decodeTableWord 16 0b100000000001100 = some .rdCtar0 := by decide
theorem test_decode_wrCtar0 : decodeTableWord 48 (0x8001F234 * 2 ^ 16 + 0b101000000001100) = some (.wrCtar0 0x8001F234#32) := by decide
theorem test_decode_rdCtar1 : decodeTableWord 16 0b100000000010000 = some .rdCtar1 := by decide
theorem test_decode_wrCtar1 : decodeTableWord 48 (0x8001F234 * 2 ^ 16 + 0b101000000010000) = some (.wrCtar1 0x8001F234#32) := by decide
theorem test_decode_rdSr : decodeTableWord 16 0b100000000101100 = some .rdSr := by decide
theorem test_decode_wrSr : decodeTableWord 48 (0x8001F234 * 2 ^ 16 + 0b101000000101100) = some (.wrSr 0x8001F234#32) := by decide
theorem test_decode_rdRser : decodeTableWord 16 0b100000000110000 = some .rdRser := by decide
theorem test_decode_wrRser : decodeTableWord 48 (0x8001F234 * 2 ^ 16 + 0b101000000110000) = some (.wrRser 0x8001F234#32) := by decide
theorem test_decode_wrPushr : decodeTableWord 48 (0x8001F234 * 2 ^ 16 + 0b101000000110100) = some (.wrPushr 0x8001F234#32) := by decide
theorem test_decode_rdPushr : decodeTableWord 16 0b100000000110100 = some .rdPushr := by decide
theorem test_decode_rdPopr : decodeTableWord 16 0b100000000111000 = some .rdPopr := by decide
theorem test_decode_wrPopr : decodeTableWord 48 (0x8001F234 * 2 ^ 16 + 0b101000000111000) = some (.wrPopr 0x8001F234#32) := by decide
theorem test_decode_rdTxfr0 : decodeTableWord 16 0b100000000111100 = some .rdTxfr0 := by decide
theorem test_decode_rdTxfr1 : decodeTableWord 16 0b100000001000000 = some .rdTxfr1 := by decide
theorem test_decode_rdTxfr2 : decodeTableWord 16 0b100000001000100 = some .rdTxfr2 := by decide
theorem test_decode_rdTxfr3 : decodeTableWord 16 0b100000001001000 = some .rdTxfr3 := by decide
theorem test_decode_wrTxfr0 : decodeTableWord 48 (0x8001F234 * 2 ^ 16 + 0b101000000111100) = some (.wrTxfr0 0x8001F234#32) := by decide
theorem test_decode_wrTxfr1 : decodeTableWord 48 (0x8001F234 * 2 ^ 16 + 0b101000001000000) = some (.wrTxfr1 0x8001F234#32) := by decide
theorem test_decode_wrTxfr2 : decodeTableWord 48 (0x8001F234 * 2 ^ 16 + 0b101000001000100) = some (.wrTxfr2 0x8001F234#32) := by decide
theorem test_decode_wrTxfr3 : decodeTableWord 48 (0x8001F234 * 2 ^ 16 + 0b101000001001000) = some (.wrTxfr3 0x8001F234#32) := by decide
theorem test_decode_rdRxfr0 : decodeTableWord 16 0b100000001111100 = some .rdRxfr0 := by decide
theorem test_decode_rdRxfr1 : decodeTableWord 16 0b100000010000000 = some .rdRxfr1 := by decide
theorem test_decode_rdRxfr2 : decodeTableWord 16 0b100000010000100 = some .rdRxfr2 := by decide
theorem test_decode_rdRxfr3 : decodeTableWord 16 0b100000010001000 = some .rdRxfr3 := by decide
theorem test_decode_wrRxfr0 : decodeTableWord 48 (0x8001F234 * 2 ^ 16 + 0b101000001111100) = some (.wrRxfr0 0x8001F234#32) := by decide
theorem test_decode_wrRxfr1 : decodeTableWord 48 (0x8001F234 * 2 ^ 16 + 0b101000010000000) = some (.wrRxfr1 0x8001F234#32) := by decide
theorem test_decode_wrRxfr2 : decodeTableWord 48 (0x8001F234 * 2 ^ 16 + 0b101000010000100) = some (.wrRxfr2 0x8001F234#32) := by decide
theorem test_decode_wrRxfr3 : decodeTableWord 48 (0x8001F234 * 2 ^ 16 + 0b101000010001000) = some (.wrRxfr3 0x8001F234#32) := by decide
theorem test_decode_refuses :
    decodeTableWord 16 0b001000000000000 = none ∧ decodeTableWord 16 0b100000000000010 = none ∧
    decodeTableWord 16 0b100000000000100 = none ∧ decodeTableWord 16 0b110000000000000 = none ∧
    decodeTableWord 16 0b1100000000000000 = none := by decide
theorem test_decode_bytes_little_endian :
    decodeBytes [0x34#8, 0x50#8, 0x10#8, 0x00#8, 0x01#8, 0x80#8, 0x99#8] = .row (.wrPushr 0x80010010#32) [0x99#8] := by decide
theorem test_encode_pushr : encode (.wrPushr 0x80010010#32) = [0x34#8, 0x50#8, 0x10#8, 0x00#8, 0x01#8, 0x80#8] := by decide
theorem test_fetch_word_runs_next :
    seen (fun s => s.rdata) (step (State.reset.withFetchWord 16 0b100000000101100)) = some 0x02000000#32 := by decide

/-! ## MCR and TCR (95_test_vectors.md V-MCR, V-TCR) -/

theorem test_rdMcr_reset : seen (fun s => s.rdata) (exec .rdMcr clocked) = some 0x00004001#32 := by decide
theorem test_rdMcr_ready : seen (fun s => s.rdata) (exec .rdMcr ready) = some 0x803F0000#32 := by decide
theorem test_wrMcr_reserved_bits :
    seen (fun s => (packMcr s.mcr, s.refused)) (exec (.wrMcr 0x80C000FE#32) ready) = some (0x80000000#32, none) := by decide
theorem test_wrMcr_refusals :
    seen (fun s => s.refused) (exec (.wrMcr 0#32) clocked) = some (some .slaveMode) ∧
    seen (fun s => s.refused) (exec (.wrMcr 1#32) clocked) = some none ∧
    seen (fun s => s.refused) (exec (.wrMcr 0x90004001#32) clocked) = some (some .reservedDconf) ∧
    seen (fun s => s.refused) (exec (.wrMcr 0x80004C01#32) clocked) = some (some .fifoOpWhileDisabled) ∧
    seen (fun s => s.refused) (exec (.wrMcr 0x803F2000#32) (filled [0x80010001#32] [])) = some (some .fifoDisableChange) := by
  decide
theorem test_rdTcr : seen (fun s => s.rdata) (exec .rdTcr { ready with tcnt := 3#16 }) = some 0x00030000#32 := by decide
theorem test_wrTcr : seen (fun s => s.tcnt) (exec (.wrTcr 0xFFFF1234#32) ready) = some 0xFFFF#16 := by decide

/-! ## CTAR0 and CTAR1 (V-CTAR, S4) -/

theorem test_rdCtar0 : seen (fun s => s.rdata) (exec .rdCtar0 ready) = some 0x38000000#32 := by decide
theorem test_wrCtar0 :
    seen (fun s => (s.ctar0, s.ctar1)) (exec (.wrCtar0 0x3E000003#32) ready) = some (0x3E000003#32, 0x78000000#32) := by decide
theorem test_rdCtar1 : seen (fun s => s.rdata) (exec .rdCtar1 ready) = some 0x78000000#32 := by decide
theorem test_wrCtar1 :
    seen (fun s => (s.ctar0, s.ctar1)) (exec (.wrCtar1 0xBFFFFFFF#32) ready) = some (0x38000000#32, 0xBFFFFFFF#32) := by decide
theorem test_divider_table :
    divRatio 0x78000000#32 = 4 ∧ divRatio 0x38000003#32 = 16 ∧ divRatio 0xB8000000#32 = 2 ∧ divRatio 0x3803000F#32 = 229376 ∧
    divRatio 0x38010002#32 = 18 ∧ frameSize 0x78000000#32 = 16 ∧ frameSize 0x18000000#32 = 4 ∧ cscDelay 0x38402000#32 = 24 := by
  decide

/-! ## SR and RSER (V-SR, V-RSER) -/

theorem test_rdSr_reset : seen (fun s => s.rdata) (exec .rdSr clocked) = some 0x02000000#32 := by decide
theorem test_rdSr_full : seen (fun s => s.rdata) (exec .rdSr (filled four [])) = some 0x40004000#32 := by decide
theorem test_wrSr_clears_what_is_one :
    seen (fun s => (s.tcf, s.rfof)) (exec (.wrSr 0x80000000#32) { ready with tcf := true, rfof := true }) = some (false, true) := by
  decide
theorem test_wrSr_zero_bits :
    seen (fun s => packSr s) (exec (.wrSr 0x0000FFFF#32) ready) = some 0x42000000#32 := by decide
theorem test_rdRser : seen (fun s => s.rdata) (exec .rdRser { ready with rser := unpackRser 0xFFFFFFFF#32 }) = some 0x9B0B0000#32 := by
  decide
theorem test_wrRser :
    seen (fun s => (irq s, dmaTxReq s)) (exec (.wrRser 0x03000000#32) ready) = some (false, true) ∧
    seen (fun s => (irq s, dmaTxReq s)) (exec (.wrRser 0x02000000#32) ready) = some (true, false) := by decide

/-! ## FIFO ports and windows (V-FIFO) -/

theorem test_wrPushr_drops_reserved_bits :
    seen (fun s => (s.txf.slot[0], s.txf.cnt)) (exec (.wrPushr 0x83C10010#32) ready) = some (0x80010010#32, 1) := by decide
theorem test_wrPushr_stops :
    seen (fun s => s.faults) (exec (.wrPushr 0x80010004#32) (filled four [])) = some [.txOverflow 0x80010004#32] ∧
    seen (fun s => s.refused) (exec (.wrPushr 0xA0010000#32) ready) = some (some .ctasReserved) ∧
    seen (fun s => s.refused) (exec (.wrPushr 0x80010000#32) clocked) = some (some .slaveMode) ∧
    seen (fun s => s.refused) (exec (.wrPushr 0x80010000#32) { clocked with mcr := { Mcr.reset with mstr := true } }) =
      some (some .fifoOpWhileDisabled) := by decide
theorem test_rdPushr : seen (fun s => s.rdata) (exec .rdPushr ready) = some (Config.freeWord 0) := rfl
theorem test_rdPopr :
    seen (fun s => (s.rdata, s.rxf.cnt, s.rxf.ptr, packSr s)) (exec .rdPopr (filled [] [0xA5#32])) =
      some (0xA5#32, 0, 1, 0x42000001#32) := by decide
theorem test_rdPopr_empty :
    seen (fun s => (s.rdata, s.rxf)) (exec .rdPopr ready) = some (Config.freeWord 0, ready.rxf) := rfl
theorem test_wrPopr : seen (fun s => s.faults) (exec (.wrPopr 0#32) ready) = some [.writeToReadOnly 0x038#12 0#32] := by decide
theorem test_rdTxfr0_wrapped :
    seen (fun s => s.rdata) (exec .rdTxfr0 { ready with txf := ⟨#v[7#32, 0#32, 0#32, 9#32], 3, 2⟩ }) = some 7#32 := by decide
theorem test_rdTxfr1 : seen (fun s => s.rdata) (exec .rdTxfr1 (filled four [])) = some 0x80010001#32 := by decide
theorem test_rdTxfr2_invalid :
    seen (fun s => s.rdata) (exec .rdTxfr2 (filled [0x80010000#32, 0x80010001#32] [])) = some (Config.freeWord 0) := rfl
theorem test_rdTxfr3 : seen (fun s => s.rdata) (exec .rdTxfr3 (filled four [])) = some 0x80010003#32 := by decide
theorem test_wrTxfr0 : seen (fun s => s.faults) (exec (.wrTxfr0 5#32) ready) = some [.writeToReadOnly 0x03C#12 5#32] := by decide
theorem test_wrTxfr1 : seen (fun s => s.faults) (exec (.wrTxfr1 5#32) ready) = some [.writeToReadOnly 0x040#12 5#32] := by decide
theorem test_wrTxfr2 : seen (fun s => s.faults) (exec (.wrTxfr2 0#32) ready) = some [.writeToReadOnly 0x044#12 0#32] := by decide
theorem test_wrTxfr3 : seen (fun s => s.faults) (exec (.wrTxfr3 5#32) ready) = some [.writeToReadOnly 0x048#12 5#32] := by decide
theorem test_rdRxfr0 : seen (fun s => s.rdata) (exec .rdRxfr0 (filled [] [0x33#32])) = some 0x33#32 := by decide
theorem test_rdRxfr1_invalid : seen (fun s => s.rdata) (exec .rdRxfr1 (filled [] [0x33#32])) = some (Config.freeWord 0) := rfl
theorem test_rdRxfr2_does_not_pop :
    seen (fun s => (s.rdata, s.rxf.cnt)) (exec .rdRxfr2 { ready with rxf := ⟨#v[0#32, 0#32, 0x33#32, 0#32], 1, 2⟩ }) =
      some (0x33#32, 2) := by decide
theorem test_rdRxfr3 : seen (fun s => s.rdata) (exec .rdRxfr3 (filled [] [1#32, 2#32, 3#32, 4#32])) = some 4#32 := by decide
theorem test_wrRxfr0 : seen (fun s => s.faults) (exec (.wrRxfr0 5#32) ready) = some [.writeToReadOnly 0x07C#12 5#32] := by decide
theorem test_wrRxfr1 : seen (fun s => s.faults) (exec (.wrRxfr1 5#32) ready) = some [.writeToReadOnly 0x080#12 5#32] := by decide
theorem test_wrRxfr2 : seen (fun s => s.faults) (exec (.wrRxfr2 5#32) ready) = some [.writeToReadOnly 0x084#12 5#32] := by decide
theorem test_wrRxfr3 : seen (fun s => s.faults) (exec (.wrRxfr3 0#32) ready) = some [.writeToReadOnly 0x088#12 0#32] := by decide

/-! ## The bus (V-BUS) -/

theorem test_bus_errors :
    seen (fun s => s.faults) (busAccess (.rd Off.mcr) State.reset) = some [.busError (windowAddr 0#12) .clockGated] ∧
    seen (fun s => s.faults) (busAccess ⟨false, 2, 0x002#12, 0#32⟩ clocked) = some [.busError (windowAddr 0x002#12) (.badWidth 2)] ∧
    seen (fun s => s.faults) (busAccess (.rd 0x002#12) clocked) = some [.busError (windowAddr 0x002#12) .misaligned] ∧
    seen (fun s => s.faults) (busAccess (.rd 0xFFC#12) clocked) = some [.busError (windowAddr 0xFFC#12) .unmapped] :=
  ⟨rfl, rfl, rfl, rfl⟩

/-! ## The sequencer (V-SEQ, V-SR) -/

theorem test_frameStart :
    seen packSr (step (onTurn .sequencer (filled [0x80010010#32] []))) = some 0x42000100#32 ∧
    seen (fun s => (s.seq.n, s.pcsAct, s.seq.busy)) (step (onTurn .sequencer (filled [0x80010010#32] []))) =
      some (8, 1#6, true) := by decide
theorem test_frameStart_reserved_size :
    seen (fun s => s.refused) (step (onTurn .sequencer { filled [0x80010010#32] [] with ctar0 := 0x10000000#32 })) =
      some (some .frameSizeReserved) := by decide
theorem test_frameEnd :
    packSr (frameEnd 0xA5#32 (inFlight 0x80010010#32)) = 0xC2020110#32 ∧
    (frameEnd 0xA5#32 (inFlight 0x80010010#32)).rxf.slot[0] = 0xA5#32 ∧
    (frameEnd 0xA5#32 (inFlight 0x80010010#32)).pcsAct = 1#6 := by decide
theorem test_frameEnd_end_of_queue : packSr (frameEnd 1#32 (inFlight 0x88010001#32)) = 0x92020110#32 := by decide
theorem test_chip_selects :
    pcsLine (inFlight 0x00010055#32) = 0b111110#6 ∧ pcsLine (frameEnd 0#32 (inFlight 0x00010055#32)) = 0b111111#6 := by decide
theorem test_overflow_sets_rfof :
    packSr (frameEnd 0x44#32 { inFlight 0x80010004#32 with rxf := fifoOf [0x40#32, 0x41#32, 0x42#32, 0x43#32] }) =
      0xC20A0140#32 := by decide
theorem test_ctcnt_clears_the_counter :
    (frameStart { filled [0x84010055#32] [] with tcnt := 5#16 }).tcnt = 0#16 := by decide
theorem test_bits_out :
    (frameOutRec 0x800100AB#32 0x18000000#32 ready.mcr).bitsOut = 0xB#32 ∧
    (frameOutRec 0x80011234#32 0x78000000#32 ready.mcr).bitsOut = 0x1234#32 := by decide
theorem test_wire_order :
    wireOrder false 8 0x81#32 = [true, false, false, false, false, false, false, true] ∧
    wireOrder true 8 0x03#32 = [true, true, false, false, false, false, false, false] := by decide

/-! ## The driver (S3, S4, V-DRV) -/

theorem test_set_divider :
    driverSetDivider 2 8 = [rd Off.ctar0 .t, .merge .t 0x8003000F#32 0x3#32, .writeReg Off.ctar0 .t, .ret .ok] ∧
    driverSetDivider 2 6 = [rd Off.ctar0 .t, .merge .t 0x8003000F#32 0x2#32, .writeReg Off.ctar0 .t, .ret .ok] ∧
    driverSetDivider 4 8 = [.refuseDivider] ∧ driverSetDivider 2 10 = [.refuseDivider] := by decide
theorem test_push_word : pushWord 0x10#8 = 0x80010010#32 ∧ pushWord 0xFF#8 = 0x800100FF#32 := by decide
theorem test_poll_times_out :
    seen (fun s => (s.host.result, s.host.todo)) (step (doing [.poll txRoom (some 0), .ret .ok, .pinMux .portC4to7] ready)) =
      some (some (.err .timeout), [.pinMux .portC4to7]) := by decide

/-! ## Witnesses: for each obligation with hypotheses, states and operands that meet them, clause by clause -/

theorem test_witness_DecodedBytesAreTheEncoding :
    decodeBytes [0x08#8, 0x50#8, 1#8, 2#8, 3#8, 4#8, 9#8] = .row (.wrTcr 0x04030201#32) [9#8] ∧
    decodeBytes [0x2C#8, 0x40#8, 9#8] = .row .rdSr [9#8] := by decide
theorem test_witness_OnlyLegalAccessesSelectARow :
    decodeAccess ⟨true, 0, 0x000#12, 5#32⟩ = .illegal (.badWidth 0) ∧ decodeAccess ⟨true, 8, 0xFFF#12, 5#32⟩ = .illegal (.badWidth 8) ∧
    decodeAccess (.rd 0x001#12) = .illegal .misaligned ∧ decodeAccess (.rd 0xFFF#12) = .illegal .misaligned ∧
    ([0x004, 0x014, 0x028, 0x04C, 0x078, 0x08C, 0xFFC].all fun n => decodeAccess (.rd (BitVec.ofNat 12 n)) == .illegal .unmapped) = true ∧
    decodeAccess (.rd 0x000#12) = .row .rdMcr ∧ decodeAccess (.rd 0x010#12) = .row .rdCtar1 ∧
    decodeAccess (.rd 0x02C#12) = .row .rdSr ∧ decodeAccess (.wr 0x048#12 5#32) = .row (.wrTxfr3 5#32) ∧
    decodeAccess (.wr 0x07C#12 5#32) = .row (.wrRxfr0 5#32) ∧ decodeAccess (.rd 0x088#12) = .row .rdRxfr3 := by decide
theorem test_witness_StepRunsTheDecodedAccess :
    let s := doing [.access (.rd Off.sr) (some .x1)] ready
    Clean s ∧ s.turns = .host :: [] ∧ s.host.todo = .access (.rd Off.sr) (some .x1) :: [] ∧ s.clkEn = true ∧
    decodeAccess (.rd Off.sr) = .row .rdSr ∧ seen (fun t => t.host.x.x1) (step s) = some 0x42000000#32 := by decide
theorem test_witness_BusChecksRecordTheirFault :
    State.reset.clkEn = false ∧ clocked.clkEn = true ∧ (2 : Nat) ≠ 4 ∧ (0x002#12).toNat % 4 ≠ 0 ∧
    (0x014#12).toNat % 4 = 0 ∧ 0x014 ≤ (0x014#12).toNat ∧ (0x08C#12).toNat % 4 = 0 ∧ 0x08C ≤ (0xFFC#12).toNat := by decide
theorem test_witness_FetchFromTheWindowIsABusError :
    let s := doing [.fetch 0xFFC#12] ready
    Clean s ∧ s.turns = .host :: [] ∧ s.host.todo = .fetch 0xFFC#12 :: [] := by decide
theorem test_witness_MarksStopEveryAgent : seen (fun s => s.faults) (step ready) = some [] := by decide
theorem test_witness_MarkedStatesAnswerTheirMark :
    (raiseFault (.txOverflow 1#32) ready).faults = .txOverflow 1#32 :: [] ∧
    ((refuse .slaveMode ready).faults = [] ∧ (refuse .slaveMode ready).refused = some .slaveMode) := by decide
theorem test_witness_McrWriteChecksThenStoresItsFields :
    (0x90004001#32).extractLsb' 28 2 ≠ 0#2 ∧
    ((0x803F2000#32).extractLsb' 28 2 = 0#2 ∧ (0x803F2000#32).getLsbD 13 ≠ ready.mcr.disTxf ∧
      0 < (filled [0x80010001#32] []).txf.cnt) ∧
    ((0x803F1000#32).extractLsb' 28 2 = 0#2 ∧ (0x803F1000#32).getLsbD 12 ≠ ready.mcr.disRxf ∧ 0 < (filled [] [1#32]).rxf.cnt) ∧
    ((0x80004401#32).extractLsb' 28 2 = 0#2 ∧ (0x80004401#32).getLsbD 13 = clocked.mcr.disTxf ∧
      (0x80004401#32).getLsbD 12 = clocked.mcr.disRxf ∧ (0x80004401#32).getLsbD 10 = true ∧ (0x80004401#32).getLsbD 14 = true) ∧
    seen (fun s => (s.txf.cnt, s.rxf.cnt, packMcr s.mcr, s.refused)) (exec (.wrMcr 0x803F0C00#32) (filled four [1#32])) =
      some (0, 0, 0x803F0000#32, none) := by decide
theorem test_witness_McrReadsBackWhatWasWritten :
    let v := 0x803F3C01#32
    v.extractLsb' 28 2 = 0#2 ∧ ready.txf.cnt = 0 ∧ ready.rxf.cnt = 0 ∧ v.getLsbD 14 = false := by decide
theorem test_witness_PushChecksThenStoresTheEntry :
    clocked.mcr.mstr = false ∧
    (let m := { Mcr.reset with mstr := true }; m.mstr = true ∧ m.mdis = true) ∧
    (ready.mcr.mstr = true ∧ ready.mcr.mdis = false ∧ 2 ≤ ((0xA0010000#32).extractLsb' 28 3).toNat) ∧
    (((0x90010000#32).extractLsb' 28 3).toNat < 2 ∧ (filled four []).txf.cnt = 4 ∧ (filled four []).mcr.disTxf = false) ∧
    ((filled [0x80010000#32] []).txf.cnt ≠ 4) := by decide
theorem test_witness_PopAnswersTheOldestEntry :
    clocked.mcr.mdis = true ∧ (ready.mcr.mdis = false ∧ ready.rxf.cnt = 0) ∧
    ((filled [] [7#32]).mcr.mdis = false ∧ 0 < (filled [] [7#32]).rxf.cnt) := by decide
theorem test_witness_TxWindowsAnswerTheirSlots :
    let f : Fifo := ⟨#v[7#32, 0#32, 0#32, 9#32], 3, 2⟩
    f.valid 4 0 = true ∧ f.valid 4 3 = true ∧ f.valid 4 1 = false ∧ f.valid 1 1 = false := by decide
theorem test_witness_RxWindowsAnswerTheirSlots :
    (filled [] [7#32]).rxf.valid 4 0 = true ∧ (filled [] [7#32]).rxf.valid 4 1 = false ∧ (filled [] [7#32]).rxf.valid 1 0 = true := by
  decide
theorem test_witness_FifoPortsWorkOnQueues :
    let s := filled [0x80010001#32] [7#32]
    FifoOk (dtx s.mcr) s.txf ∧ FifoOk (drx s.mcr) s.rxf ∧ s.mcr.mdis = false ∧ s.mcr.mstr = true ∧
    ((0x90010000#32).extractLsb' 28 3).toNat < 2 ∧ s.txf.cnt < dtx s.mcr ∧ 0 < s.rxf.cnt := by decide
theorem test_witness_WindowsShowTheQueue :
    let s : State := { ready with txf := ⟨#v[7#32, 0#32, 0#32, 9#32], 3, 2⟩, rxf := fifoOf [1#32, 2#32, 3#32, 4#32] }
    (FifoOk (dtx s.mcr) s.txf ∧ 1 < s.txf.cnt ∧ 0 = (s.txf.ptr.val + 1) % dtx s.mcr) ∧
    (FifoOk (drx s.mcr) s.rxf ∧ 3 < s.rxf.cnt ∧ 3 = (s.rxf.ptr.val + 3) % drx s.mcr) := by decide
theorem test_witness_ReadsHaveNoSideEffect : Instr.rdRxfr3.access.write = false ∧ Instr.rdRxfr3 ≠ .rdPopr := by decide
theorem test_witness_NoAccessSetsAFlag :
    exec (.wrRser 0x80000000#32) { ready with tcf := true } =
      .next { ready with tcf := true, rser := ⟨true, false, false, false, false, false, false, false⟩ } := rfl
theorem test_witness_RegistersChangeOnlyByTheirOwnWrite :
    exec (.wrTcr 0x00050000#32) ready = .next { ready with tcnt := 5#16 } := rfl
theorem test_witness_AccessesLeaveTheFrameInFlightAlone :
    seen (fun t => (t.seq.busy, t.seq.entry)) (exec (.wrMcr 0x803F0001#32) (inFlight 0x80010010#32)) = some (true, 0x80010010#32) ∧
    (Instr.wrMcr 0x803F0001#32).access.write = true := by decide
theorem test_witness_FrameStartTakesTheOldestEntry :
    let s := onTurn .sequencer (filled [0x90010010#32] [])
    Clean s ∧ s.turns = .sequencer :: [] ∧ running s = true ∧ s.mcr.mstr = true ∧ s.seq.busy = false ∧ 0 < s.txf.cnt ∧
    s.txf.slot[s.txf.ptr] = 0x90010010#32 ∧ (0x90010010#32).extractLsb' 28 3 = 1#3 ∧ (0x80010010#32).extractLsb' 28 3 = 0#3 ∧
    4 ≤ (s.ctar1.extractLsb' 27 4).toNat + 1 ∧ ((0x10000000#32).extractLsb' 27 4).toNat + 1 < 4 ∧
    ((0x18000000#32).extractLsb' 27 4).toNat + 1 = 4 := by decide
theorem test_witness_FrameEndDeliversTheReceivedWord :
    let s := onTurn .sequencer (inFlight 0x88010010#32)
    Clean s ∧ s.turns = .sequencer :: [] ∧ s.seq.busy = true ∧ s.clkEn = true ∧ s.rxf.cnt < 4 ∧
    4 ≤ (fifoOf [0x40#32, 0x41#32, 0x42#32, 0x43#32]).cnt := by decide
theorem test_witness_SequencerWaitsUntilAStepIsEnabled :
    let s := onTurn .sequencer { inFlight 0x80010010#32 with clkEn := false }
    Clean s ∧ s.turns = .sequencer :: [] ∧ ¬(s.seq.busy = true ∧ s.clkEn = true) ∧
    ¬(running s = true ∧ s.mcr.mstr = true ∧ s.seq.busy = false ∧ 0 < s.txf.cnt) := by decide
theorem test_witness_FrameInFlightFinishesAfterAnyAccess :
    let s := onTurn .sequencer (inFlight 0x80010010#32)
    seen (fun t => (decide (Clean t), t.turns, t.seq.busy, t.clkEn)) (exec (.wrMcr 0x803F4000#32) s) =
      some (true, [.sequencer], true, true) ∧ s.seq.busy = true ∧ s.clkEn = true := by decide
theorem test_witness_SequencerLeavesTheConfigurationAlone :
    let s := { inFlight 0x80010010#32 with tcf := true, eoqf := true, rfof := true }
    s.tcf = true ∧ s.eoqf = true ∧ s.rfof = true ∧ frameEndEnabled s = true := by decide
theorem test_witness_SequencerMovesQueueHeads :
    let s := filled [0x80010010#32, 0x80010011#32] [7#32]
    FifoOk (dtx s.mcr) s.txf ∧ FifoOk (drx s.mcr) s.rxf ∧ frameStartEnabled s = true ∧ (sequencerMove s).refused = none ∧
    frameEndEnabled (inFlight 0x80010010#32) = true ∧ (inFlight 0x80010010#32).rxf.cnt < drx ready.mcr := by decide
theorem test_witness_WireOrderFollowsLsbfe : (0 : Nat) < 4 ∧ (15 : Nat) < 16 := by decide
theorem test_witness_ChipSelectsReturnToIdle :
    (5 : Nat) < 6 ∧ (inFlight 0x00010055#32).seq.entry.getLsbD 31 = false ∧ (inFlight 0x80010055#32).seq.entry.getLsbD 31 = true := by
  decide

/-- A state of the middle of a run: a frame in flight, one entry queued, one word received. -/
def midRun : State := { inFlight 0x80010010#32 with txf := fifoOf [0x90010011#32], rxf := fifoOf [0xA5#32] }

theorem test_midRun_inv : Inv midRun := by
  have ht : midRun.txf.contents (dtx midRun.mcr) = [0x90010011#32] := by decide
  have hr : midRun.rxf.contents (drx midRun.mcr) = [0xA5#32] := by decide
  refine ⟨by decide, by decide, by decide, ?_, ?_, by decide, by decide, by decide, by decide, by decide⟩
  · intro e he
    rw [ht, List.mem_singleton] at he
    subst he; decide
  · intro w hw
    rw [hr, List.mem_singleton] at hw
    subst hw; decide
theorem test_witness_EveryStepKeepsTheInvariant : Inv midRun ∧ seen (fun t => t.seq.busy) (step midRun) = some false :=
  ⟨test_midRun_inv, by decide⟩
theorem test_witness_FramesAlternateAlongEveryRun :
    traceBusy midRun.trace = some midRun.seq.busy ∧ Sys2Proof.core.run 1 ready = .next ready := ⟨by decide, rfl⟩
theorem test_witness_EnvironmentActionsSetTheirInput :
    Clean ready ∧ (onTurn (.setClockGate false) ready).turns = .setClockGate false :: [] ∧
    (onTurn (.setDebugHalt true) ready).turns = .setDebugHalt true :: [] ∧ (onTurn (.setDoze true) ready).turns = .setDoze true :: [] ∧
    Clean (onTurn (.setDoze true) ready) := by decide
theorem test_witness_ChipResetTurnResetsTheBlock :
    Clean (onTurn .chipReset midRun) ∧ (onTurn .chipReset midRun).turns = .chipReset :: [] := by decide
theorem test_witness_UnlistedTurnGoesToAnEnabledSequencer :
    (Clean midRun ∧ midRun.turns = [] ∧ frameEndEnabled midRun = true) ∧
    (Clean ready ∧ ready.turns = [] ∧ frameEndEnabled ready = false ∧ frameStartEnabled ready = false ∧ ready.host.todo = []) := by
  decide
theorem test_witness_SetModeWritesItsTwoBits : (0 : Nat) ≠ 26 ∧ (31 : Nat) ≠ 25 := by decide
theorem test_witness_SetDividerProgramsTheProduct :
    let s := doing [.refuseDivider] ready
    (Clean s ∧ s.turns = .host :: [] ∧ s.host.todo = .refuseDivider :: []) ∧
    ((7 : Nat) ∈ [2, 3, 5, 7] ∧ (32768 : Nat) ∈ [2, 4, 6, 8, 16, 32, 64, 128, 256, 512, 1024, 2048, 4096, 8192, 16384, 32768]) ∧
    (4 : Nat) ∉ [2, 3, 5, 7] := by decide
theorem test_witness_ReadModifyWriteMergesThenWrites :
    let s := doing [.merge .t 1#32 2#32] ready
    let u := doing [.writeReg Off.ctar0 .t] ready
    (Clean s ∧ s.turns = .host :: [] ∧ s.host.todo = .merge .t 1#32 2#32 :: []) ∧
    (Clean u ∧ u.turns = .host :: [] ∧ u.host.todo = .writeReg Off.ctar0 .t :: []) := by decide
theorem test_witness_PollsRepeatUntilMetOrSpent :
    let s := doing [.pollTest txRoom none] ready
    let u := doing [.poll txRoom (some 1)] ready
    let v := doing [.poll rxReady none] State.reset
    (Clean s ∧ s.turns = .host :: [] ∧ s.host.todo = .pollTest txRoom none :: [] ∧ txRoom.holds s.host.x.t = true) ∧
    (Clean u ∧ u.turns = .host :: [] ∧ u.host.todo = .poll txRoom (some (0 + 1)) :: [] ∧
      seen (fun t => (decide (Clean t), t.host.x.t, t.host.todo)) (step u) = some (true, 0x42000000#32, [.pollTest txRoom (some 0)])) ∧
    (Clean v ∧ v.turns = .host :: [] ∧ v.host.todo = .poll rxReady none :: [] ∧
      seen (fun t => (decide (Clean t), t.host.x.t)) (step v) = some (false, 0#32)) ∧
    txRoom.holds 0x3000#32 = true ∧ txRoom.holds 0x4000#32 = false ∧ rxReady.holds 0#32 = false ∧ rxReady.holds 0x10#32 = true ∧
    (doing [.poll txRoom (some 0), .ret .ok] ready).host.todo = .poll txRoom (some 0) :: .ret .ok :: [] := by decide
theorem test_witness_PollsRepeatUntilMetOrSpent_timeouts :
    let s := doing (driverRead (some 0)) ready
    let u := doing (driverSend (some 0) true 0x5A#8) ready
    (Clean s ∧ s.turns = .host :: [] ∧ s.host.todo = .poll rxReady (some 0) :: ([rd Off.popr .t] ++ .retByte :: [])) ∧
    (Clean u ∧ u.turns = .host :: [] ∧
      u.host.todo = .drain (some 0) :: (writeBody (some 0) 0x5A#8 ++ [rd Off.sr .t, .overrunTest] ++ .ret .ok :: [])) := by
  decide
theorem test_witness_PollsRepeatUntilMetOrSpent_conditions :
    (PollSpec.mk Off.tcr 16 16 (.equal 3)).holds 0x00030000#32 = true ∧
    (PollSpec.mk Off.tcr 16 16 (.differs 3)).holds 0x00030000#32 = false ∧
    (PollSpec.mk Off.sr 4 4 (.both (.greater 1) (.differs 3))).holds 0x20#32 = true ∧
    (PollSpec.mk Off.sr 4 4 (.either (.equal 0) (.equal 4))).holds 0x30#32 = false := by decide
theorem test_witness_PollsSeeTheFifoCounts :
    let s := filled [1#32, 2#32, 3#32] []
    let u := filled four [1#32]
    (FifoOk (dtx s.mcr) s.txf ∧ FifoOk (drx s.mcr) s.rxf ∧ s.txf.cnt ≤ 3 ∧ ¬0 < s.rxf.cnt) ∧
    (FifoOk (dtx u.mcr) u.txf ∧ FifoOk (drx u.mcr) u.rxf ∧ ¬u.txf.cnt ≤ 3 ∧ 0 < u.rxf.cnt) := by
  refine ⟨⟨?_, ?_, ?_, ?_⟩, ?_, ?_, ?_, ?_⟩ <;> decide
theorem test_witness_PushAfterTheWaitIsAdmitted :
    Inv midRun ∧ Clean midRun ∧ midRun.mcr.mstr = true ∧ midRun.mcr.mdis = false ∧ midRun.mcr.disTxf = false ∧
    txRoom.holds (packSr midRun) = true ∧ Clean (sequencerMove midRun) :=
  ⟨test_midRun_inv, by decide, by decide, by decide, by decide, by decide, by decide⟩
theorem test_witness_SendDrainsAndReportsOverrun :
    let at_ := fun (w : Word) (ops : List HostOp) =>
      let s := doing ops ready
      ({ s with host := { s.host with x := { s.host.x with t := w } } } : State)
    let s := at_ 0x10#32 [.drainTest none]
    let u := at_ 0x00080000#32 [.overrunTest, .ret .ok]
    (Clean (at_ 0#32 [.drain (some 1)]) ∧ (at_ 0#32 [.drain (some 1)]).host.todo = .drain (some (0 + 1)) :: []) ∧
    (Clean s ∧ s.turns = .host :: [] ∧ s.host.todo = .drainTest none :: [] ∧ 0 < (s.host.x.t.extractLsb' 4 4).toNat) ∧
    ((at_ 0#32 [.drainTest none]).host.x.t.extractLsb' 4 4).toNat = 0 ∧
    (Clean u ∧ u.turns = .host :: [] ∧ u.host.todo = .overrunTest :: .ret .ok :: [] ∧ u.host.x.t.getLsbD 19 = true) ∧
    (at_ 0x10#32 [.overrunTest, .ret .ok]).host.x.t.getLsbD 19 = false := by decide
theorem test_witness_StartBringsTheModuleUp :
    let s : State := { midRun with turns := List.replicate 15 .host, host := { midRun.host with todo := driverStart } }
    Inv s ∧ Clean s ∧ s.mcr.mstr = true ∧ s.turns = List.replicate 15 .host ++ [] ∧ s.host.todo = driverStart ++ [] :=
  ⟨inv_congr test_midRun_inv rfl rfl rfl rfl rfl rfl rfl rfl rfl rfl, by decide, rfl, rfl, by simp⟩
theorem test_witness_TransferStatesFollowBringUp_states :
    transferState { clocked with mcr := { Mcr.reset with mstr := true } } = .uninitialized ∧ transferState ready = .ready ∧
    transferState midRun = .transferring ∧ transferState { ready with mcr := { ready.mcr with halt := true } } = .stopped := by
  decide
theorem test_witness_TransferStatesFollowBringUp :
    let s := doing [wr Off.mcr 0x803F0000#32] clocked
    (Inv s ∧ s.turns = .host :: [] ∧ seen (fun t => t.broughtUp) (step s) = some true) ∧
    (Inv (onTurn .chipReset midRun) ∧ seen (fun t => t.broughtUp) (step (onTurn .chipReset midRun)) = some false) := by
  refine ⟨⟨?_, rfl, by decide⟩, inv_congr test_midRun_inv rfl rfl rfl rfl rfl rfl rfl rfl rfl rfl, by decide⟩
  exact ⟨by decide, by decide, by decide, by simp [show (doing _ clocked).txf.contents (dtx (doing _ clocked).mcr) = [] from rfl],
    by simp [show (doing _ clocked).rxf.contents (drx (doing _ clocked).mcr) = [] from rfl], by decide, by decide, by decide,
    by decide, by decide⟩

end Sys2Proof.Tests
end

/-! SUPPORT. The proofs of the statements about the state: reset, the FIFOs as queues, the flags, the environment's actions, and the
invariant of Safety. What an access can do is said once, by `AccessEffect`, and the invariant by one lemma per kind of update. -/

namespace Sys2Proof.Machine

/-! What one access can do. -/

/-- WR_PUSHR: refused, faulted, or admitted with one TX entry more (44_fifo_ports.md R160). -/
theorem execWrPushr_cases (v : Word) (s : State) :
    (∃ r, execWrPushr v s = .next (refuse r s)) ∨ (∃ f, execWrPushr v s = .next (raiseFault f s)) ∨
    ((entryCtas v).toNat < 2 ∧ s.txf.cnt ≠ dtx s.mcr ∧
      execWrPushr v s = .next { s with txf := s.txf.put (dtx s.mcr) (storedEntry v) }) := by
  unfold execWrPushr
  split
  · exact .inl ⟨_, rfl⟩
  · split
    · exact .inl ⟨_, rfl⟩
    · split
      · exact .inl ⟨_, rfl⟩
      · next hctas =>
        split
        · exact .inr (.inl ⟨_, rfl⟩)
        · next hfull => exact .inr (.inr ⟨by omega, by simpa [Fifo.full] using hfull, rfl⟩)

/-- An admitted push of WR_PUSHR (44_fifo_ports.md R160). -/
theorem execWrPushr_admitted {v : Word} {s : State} (hm : s.mcr.mstr = true) (hd : s.mcr.mdis = false)
    (hv : (entryCtas v).toNat < 2) (hc : s.txf.cnt < dtx s.mcr) :
    execWrPushr v s = .next { s with txf := s.txf.put (dtx s.mcr) (storedEntry v) } := by
  have hfull : s.txf.full (dtx s.mcr) = false := by simp [Fifo.full]; omega
  simp [execWrPushr, hm, hd, hfull, hv]

/-- RD_POPR with an entry to pop (44_fifo_ports.md R162). -/
theorem execRdPopr_admitted {s : State} (hd : s.mcr.mdis = false) (hc : 0 < s.rxf.cnt) :
    execRdPopr s = .next { answer s.rxf.front s with rxf := s.rxf.drop (drx s.mcr) } := by
  simp [execRdPopr, hd, Nat.ne_of_gt hc]

/-- RD_POPR: refused, an answer of an empty FIFO, or the oldest RX entry answered and dropped (44_fifo_ports.md R162). -/
theorem execRdPopr_cases (s : State) :
    (∃ r, execRdPopr s = .next (refuse r s)) ∨ execRdPopr s = .next (answerDraw s) ∨
    (0 < s.rxf.cnt ∧ execRdPopr s = .next { answer s.rxf.front s with rxf := s.rxf.drop (drx s.mcr) }) := by
  unfold execRdPopr
  split
  · exact .inl ⟨_, rfl⟩
  · split
    · exact .inr (.inl rfl)
    · exact .inr (.inr ⟨by omega, rfl⟩)

/-- Everything an access of instruction i can make of a state. -/
inductive AccessEffect (s : State) : Instr → State → Prop where
  | refused {i : Instr} (r : Refusal) : AccessEffect s i (refuse r s)
  | faulted {i : Instr} (f : Fault) : AccessEffect s i (raiseFault f s)
  | answered {i : Instr} (v : Word) (n : Nat) : AccessEffect s i { s with rdata := v, draws := n }
  | registers {i : Instr} (tcnt : BitVec 16) (c0 c1 : Word) (r : Rser) :
      AccessEffect s i { s with tcnt := tcnt, ctar0 := c0, ctar1 := c1, rser := r }
  | wroteMcr (v : Word) (admitted : mcrRefusal v s = none) : AccessEffect s (.wrMcr v) (writeMcr v s)
  | clearedFlags (v : Word) : AccessEffect s (.wrSr v) (checkSlave (clearFlags v s))
  | pushed (v : Word) (legal : (entryCtas v).toNat < 2) (room : s.txf.cnt ≠ dtx s.mcr) :
      AccessEffect s (.wrPushr v) { s with txf := s.txf.put (dtx s.mcr) (storedEntry v) }
  | popped (nonempty : 0 < s.rxf.cnt) :
      AccessEffect s .rdPopr { answer s.rxf.front s with rxf := s.rxf.drop (drx s.mcr) }

theorem accessEffect_answerSlot (i : Instr) (depth : Nat) (f : Fifo) (j : Fin 4) (s : State) :
    AccessEffect s i (answerSlot depth f j s) := by
  rw [answerSlot_frame]; exact .answered _ _

/-- What an instruction answers is one of its effects. -/
theorem exec_effect {i : Instr} {s t : State} (h : exec i s = .next t) : AccessEffect s i t := by
  cases i
  case wrMcr v =>
    rcases execWrMcr_cases v s with ⟨r, _, h'⟩ | ⟨hr, h'⟩ <;> cases h'.symm.trans h
    · exact .refused r
    · exact .wroteMcr v hr
  case wrSr v => cases h; exact .clearedFlags v
  case wrPushr v =>
    rcases execWrPushr_cases v s with ⟨r, h'⟩ | ⟨f, h'⟩ | ⟨hv, hc, h'⟩ <;> cases h'.symm.trans h
    · exact .refused r
    · exact .faulted f
    · exact .pushed v hv hc
  case rdPopr =>
    rcases execRdPopr_cases s with ⟨r, h'⟩ | h' | ⟨hc, h'⟩ <;> cases h'.symm.trans h
    · exact .refused r
    · exact .answered _ _
    · exact .popped hc
  case rdMcr | rdTcr | rdCtar0 | rdCtar1 | rdSr | rdRser | rdPushr => cases h; exact .answered _ _
  case rdTxfr0 | rdTxfr1 | rdTxfr2 | rdTxfr3 | rdRxfr0 | rdRxfr1 | rdRxfr2 | rdRxfr3 =>
    cases h; exact accessEffect_answerSlot _ _ _ _ s
  case wrPopr | wrTxfr0 | wrTxfr1 | wrTxfr2 | wrTxfr3 | wrRxfr0 | wrRxfr1 | wrRxfr2 | wrRxfr3 =>
    cases h; exact .faulted _
  case wrTcr | wrCtar0 | wrCtar1 | wrRser => cases h; exact .registers _ _ _ _

/-! The invariant after each kind of update. -/

/-- The host and the turns are no part of the invariant. -/
theorem inv_agents {s : State} (h : Inv s) (a : HostAgent) (ts : List Turn) : Inv { s with host := a, turns := ts } :=
  inv_congr h rfl rfl rfl rfl rfl rfl rfl rfl rfl rfl

/-- A gated module does not run, so gating the clock voids the clause `master` and keeps the others. -/
theorem inv_gated {s : State} (h : Inv s) : Inv { s with clkEn := false } :=
  { h with master := fun hr => by simp [running] at hr }

/-- `check_slave` restores the clause `master`, the only one that gating the clock voids. -/
theorem inv_checkSlave {s : State} (hc : Clean s) (h : Inv { s with clkEn := false }) : Inv (checkSlave s) := by
  unfold checkSlave
  split
  · exact { h with master := fun _ _ => rfl, marks := by simp [markCount, hc.1] }
  · next hn => exact { h with master := fun hr hm => absurd (by simp [hr, hm]) hn }

/-- Another TX FIFO keeps the invariant if it is within its depth and holds only legal entries. -/
theorem inv_setTxf {s : State} (h : Inv s) {f : Fifo} (hf : FifoOk (dtx s.mcr) f)
    (hq : ∀ e ∈ f.contents (dtx s.mcr), EntryOk e) : Inv { s with txf := f } :=
  { h with tx := hf, queued := hq }

/-- Another RX FIFO keeps the invariant if it is within its depth and holds only words of at most 16 bits. -/
theorem inv_setRxf {s : State} (h : Inv s) {f : Fifo} (hf : FifoOk (drx s.mcr) f)
    (hq : ∀ w ∈ f.contents (drx s.mcr), w.toNat < 2 ^ 16) : Inv { s with rxf := f } :=
  { h with rx := hf, received := hq }

/-! The invariant after an access. -/

theorem dtx_congr {m m' : Mcr} (h : m.disTxf = m'.disTxf) : dtx m = dtx m' := by simp [dtx, h]

theorem drx_congr {m m' : Mcr} (h : m.disRxf = m'.disRxf) : drx m = drx m' := by simp [drx, h]

/-- The admitted write of MCR keeps the invariant: a FIFO whose depth changes is empty (41_module_control.md R101, R104). -/
theorem inv_writeMcr {v : Word} {s : State} (hc : Clean s) (h : Inv s) (ha : mcrRefusal v s = none) : Inv (writeMcr v s) := by
  obtain ⟨hdconf, htx, hrx, _⟩ := (mcrRefusal_eq_none_iff v s).1 ha
  obtain ⟨hframe, hmcr, hup, htslot, hrslot, htcnt, hrcnt, htptr, hrptr, hrefused⟩ := writeMcr_spec v s _ rfl
  generalize writeMcr v s = t at *
  obtain ⟨htok, htmem⟩ := mcrWrite_ok (dtx_cases t.mcr) h.tx htslot htcnt htptr (fun hchg => htx.resolve_left hchg)
    (fun hsame => by rw [hmcr]; exact dtx_congr (not_not.1 hsame))
  obtain ⟨hrok, hrmem⟩ := mcrWrite_ok (drx_cases t.mcr) h.rx hrslot hrcnt hrptr (fun hchg => hrx.resolve_left hchg)
    (fun hsame => by rw [hmcr]; exact drx_congr (not_not.1 hsame))
  have hfaults : t.faults = [] := by rw [hframe]; exact hc.1
  refine ⟨htok, hrok, by rw [hmcr]; exact hdconf, fun e he => h.queued e (htmem e he), fun w hw => h.received w (hrmem w hw),
    ?_, fun hr hm => ?_, fun hu => ?_, ?_, ?_⟩
  · rw [hframe]; exact h.inFlight
  · rw [hmcr] at hm
    rw [hrefused, if_pos ⟨hr, hm⟩]
  · rw [hmcr] at hu
    simp [hup, hu]
  · rw [hframe]; exact h.paired
  · rw [markCount, hfaults]; split <;> simp

/-- An access from a clean state keeps the invariant. -/
theorem inv_of_effect {i : Instr} {s t : State} (he : AccessEffect s i t) (hc : Clean s) (h : Inv s) : Inv t := by
  cases he with
  | refused r => exact inv_refuse hc h r
  | faulted f => exact inv_raiseFault hc h f
  | answered v n => exact inv_congr h rfl rfl rfl rfl rfl rfl rfl rfl rfl rfl
  | registers => exact inv_congr h rfl rfl rfl rfl rfl rfl rfl rfl rfl rfl
  | wroteMcr v admitted => exact inv_writeMcr hc h admitted
  | clearedFlags v => exact inv_checkSlave hc (inv_congr (inv_gated h) rfl rfl rfl rfl rfl rfl rfl (by simp [running]) rfl rfl)
  | pushed v legal room =>
    have hlt : s.txf.cnt < dtx s.mcr := Nat.lt_of_le_of_ne h.tx.1 room
    refine inv_setTxf h (put_ok _ h.tx hlt) fun e he => ?_
    rw [contents_put (dtx_cases _) _ hlt, List.mem_append, List.mem_singleton] at he
    rcases he with he | rfl
    · exact h.queued e he
    · exact storedEntry_ok legal
  | popped nonempty =>
    refine inv_setRxf (inv_answer h _) (drop_ok (drx_cases _) h.rx) fun w hw => h.received w ?_
    rw [contents_drop (drx_cases _) h.rx.2 nonempty]
    exact List.mem_cons_of_mem _ hw

/-- A bus access from a clean state keeps the invariant. -/
theorem inv_busAccess {a : BusAccess} {s t : State} (hb : busAccess a s = .next t) (hc : Clean s) (h : Inv s) : Inv t := by
  rcases busAccess_cases a s with ⟨f, h'⟩ | ⟨_, i, _, h'⟩
  · cases h'.symm.trans hb; exact inv_raiseFault hc h f
  · exact inv_of_effect (exec_effect (h'.symm.trans hb)) hc h

/-! The invariant after a move of the host. -/

theorem inv_setHost {s : State} (h : Inv s) (a : HostAgent) : Inv { s with host := a } := inv_agents h a s.turns

theorem inv_setTodo {s : State} (h : Inv s) (ops : List HostOp) : Inv (setTodo ops s) := inv_setHost h _

theorem inv_deliver {s : State} (h : Inv s) (dst : Option HostReg) : Inv (deliver dst s) := by
  unfold deliver
  split
  · exact h
  · split
    · exact h
    · exact inv_setHost h _

/-- An access whose answer goes to a host register keeps the invariant. -/
theorem inv_deliverTo {a : BusAccess} {dst : Option HostReg} {s t : State} (hd : deliverTo dst (busAccess a s) = .next t)
    (hc : Clean s) (h : Inv s) : Inv t := by
  obtain ⟨u, hu⟩ := busAccess_next a s
  rw [hu] at hd
  cases hd
  exact inv_deliver (inv_busAccess hu hc h) dst

/-- SetClockGate, SetDebugHalt and SetDoze change only what `running` reads (10_state.md R50, R51). -/
theorem inv_setInputs {s : State} (hc : Clean s) (h : Inv s) (clk dbg doze : Bool) :
    Inv (checkSlave { s with clkEn := clk, debugHalt := dbg, dozeReq := doze }) :=
  inv_checkSlave hc (inv_congr (inv_gated h) rfl rfl rfl rfl rfl rfl rfl (by simp [running]) rfl rfl)

/-- The host's operations keep the invariant: each is an access, a move of the host alone, a mark, or SetClockGate. -/
theorem inv_hostOp {op : HostOp} {rest : List HostOp} {s t : State} (ho : hostOp op rest s = .next t) (hc : Clean s)
    (h : Inv s) : Inv t := by
  cases op with
  | access a dst => exact inv_deliverTo ho hc h
  | writeReg off src => exact inv_busAccess ho hc h
  | poll | drain =>
    simp only [hostOp] at ho
    split at ho
    · cases ho; exact inv_setHost h _
    · exact inv_deliverTo ho hc (inv_setTodo h _)
  | pollTest =>
    cases ho
    split
    · exact h
    · exact inv_setTodo h _
  | drainTest | overrunTest =>
    cases ho
    split
    · exact inv_setTodo h _
    · exact h
  | fetch off => cases ho; exact inv_raiseFault hc h _
  | clockGate on => cases ho; exact inv_setInputs hc h on _ _
  | pinMux v => cases ho; exact h
  | refuseDivider => cases ho; exact inv_refuse hc h _
  | merge | ret | retByte => cases ho; exact inv_setHost h _

theorem inv_hostMove {s t : State} (hm : hostMove s = .next t) (hc : Clean s) (h : Inv s) : Inv t := by
  unfold hostMove at hm
  split at hm
  · cases hm; exact h
  · exact inv_hostOp hm hc (inv_setTodo h _)

/-! The invariant after a move of the sequencer. -/

/-- The RX FIFO after a frame, with room for its word or without, is within its depth and holds what it held and that word. -/
theorem rxf_after_frame {s : State} (h : FifoOk (drx s.mcr) s.rxf) (r : Word) :
    let f := if s.rxf.cnt < drx s.mcr then s.rxf.put (drx s.mcr) r else overflowRxf r s
    FifoOk (drx s.mcr) f ∧ ∀ w ∈ f.contents (drx s.mcr), w ∈ s.rxf.contents (drx s.mcr) ∨ w = r := by
  intro f
  by_cases hroom : s.rxf.cnt < drx s.mcr
  · simp only [f, hroom, if_true, contents_put (drx_cases _) r hroom]
    exact ⟨put_ok r h hroom, by simp⟩
  · have hfull : s.rxf.cnt = drx s.mcr := Nat.le_antisymm h.1 (Nat.le_of_not_lt hroom)
    simp only [f, hroom, if_false]
    rcases overflowRxf_cases r s with ⟨_, ho⟩ | ⟨_, _, ho⟩ <;> rw [ho]
    · exact ⟨h, fun w hw => .inl hw⟩
    · rw [contents_replaceNewest (drx_cases _) r hfull]
      refine ⟨replaceNewest_ok r h, fun w hw => ?_⟩
      rcases List.mem_append.1 hw with hw | hw
      · exact .inl (List.mem_of_mem_dropLast hw)
      · exact .inr (List.mem_singleton.1 hw)

/-- FrameEnd can only stop the module, by EOQF (45_transfer_sequencer.md R185). -/
theorem running_of_frameEnd {d : Word} {s : State} (h : running (frameEnd d s) = true) : running s = true := by
  simp only [running, frameEnd, Bool.and_eq_true, Bool.not_eq_true', Bool.or_eq_false_iff] at h ⊢
  tauto

/-- FrameEnd keeps the invariant: the received word is of the size of the frame in flight, at most 16 bits. -/
theorem inv_frameEnd {d : Word} {s : State} (h : Inv s) (hb : s.seq.busy = true) : Inv (frameEnd d s) := by
  have hword : (lowBits s.seq.n d).toNat < 2 ^ 16 := by
    obtain ⟨_, _, hn, _⟩ := h.inFlight hb
    calc (lowBits s.seq.n d).toNat < 2 ^ s.seq.n := lowBits_lt _ _
      _ ≤ 2 ^ 16 := Nat.pow_le_pow_right (by omega) (hn ▸ frameSize_le _)
  obtain ⟨hok, hmem⟩ := rxf_after_frame h.rx (lowBits s.seq.n d)
  have hpaired : traceBusy (s.trace ++ [.frameIn (lowBits s.seq.n d)]) = some false := by
    rw [traceBusy_append _ h.paired, hb]; rfl
  refine { h with rx := ?_, received := fun w hw => ?_, inFlight := fun hf => by simp [frameEnd] at hf,
                  master := fun hr => h.master (running_of_frameEnd hr), paired := hpaired }
  · simpa [frameEnd] using hok
  · rcases hmem w (by simpa [frameEnd] using hw) with hw | rfl
    · exact h.received w hw
    · exact hword

/-- The oldest entry of a queue within its depth is one of it. -/
theorem front_mem_contents {depth : Nat} (hd : depth = 1 ∨ depth = 4) {f : Fifo} (hf : FifoOk depth f) (hc : 0 < f.cnt) :
    f.front ∈ f.contents depth := by
  rw [contents_drop hd hf.2 hc]; exact List.mem_cons_self

/-- FrameStart keeps the invariant: the frame in flight is the oldest entry, with the CTAR it selects. -/
theorem inv_frameStart {s : State} (h : Inv s) (he : frameStartEnabled s = true) : Inv (frameStart s) := by
  obtain ⟨_, _, hidle, hcnt, hc⟩ := (frameStartEnabled_iff s).1 he
  rcases frameStart_cases s with ⟨r, hs⟩ | ⟨w, _, hsize, hs⟩ <;> rw [hs]
  · exact inv_refuse hc h r
  · have hpaired : traceBusy (s.trace ++ [.frameOut (frameOutRec s.txf.front w s.mcr)]) = some true := by
      rw [traceBusy_append _ h.paired, hidle]; rfl
    have hentry := h.queued _ (front_mem_contents (dtx_cases _) h.tx hcnt)
    exact { h with
      tx := drop_ok (dtx_cases _) h.tx
      queued := fun e he => h.queued e (by rw [contents_drop (dtx_cases _) h.tx.2 hcnt]; exact List.mem_cons_of_mem _ he)
      inFlight := fun _ => ⟨hentry, hsize, rfl, rfl⟩
      paired := hpaired }

/-- A move of the sequencer keeps the invariant. -/
theorem inv_sequencerMove {s : State} (h : Inv s) : Inv (sequencerMove s) := by
  rcases sequencerMove_cases s with ⟨he, hs⟩ | ⟨_, he, hs⟩ | ⟨_, _, hs⟩ <;> rw [hs]
  · exact inv_frameEnd (inv_congr h rfl rfl rfl rfl rfl rfl rfl rfl rfl rfl) ((frameEndEnabled_iff s).1 he).1
  · exact inv_frameStart h he
  · exact h

/-! The invariant after a step. -/

/-- The invariant holds after reset (10_state.md R43 to R49). -/
theorem inv_reset : Inv State.reset := by
  have ht : State.reset.txf.contents (dtx State.reset.mcr) = [] := contents_of_empty rfl
  have hr : State.reset.rxf.contents (drx State.reset.mcr) = [] := contents_of_empty rfl
  exact ⟨by decide, by decide, rfl, by simp [ht], by simp [hr], by decide, by decide, by decide, rfl, by decide⟩

/-- The move of any agent keeps the invariant. -/
theorem inv_takeTurn {a : Turn} {s t : State} (ht : takeTurn a s = .next t) (hc : Clean s) (h : Inv s) : Inv t := by
  cases a with
  | host => exact inv_hostMove ht hc h
  | sequencer => cases ht; exact inv_sequencerMove h
  | setClockGate b => cases ht; exact inv_setInputs hc h b _ _
  | setDebugHalt b => cases ht; exact inv_setInputs hc h _ b _
  | setDoze b => cases ht; exact inv_setInputs hc h _ _ b
  | chipReset => cases ht; exact inv_congr inv_reset rfl rfl rfl rfl rfl rfl rfl rfl rfl rfl

/-- Settles O46: only a clean state steps, and its step is one agent's move, each of which keeps the invariant. -/
theorem everyStepKeepsTheInvariant : Obligations.EveryStepKeepsTheInvariant := by
  unfold Obligations.EveryStepKeepsTheInvariant
  intro s t h hstep
  obtain ⟨hc, hm⟩ := step_next hstep
  rcases move_cases s with ⟨a, ts, _, h'⟩ | ⟨_, h'⟩ <;> rw [h'] at hm
  · exact inv_takeTurn hm hc (inv_agents h s.host ts)
  · exact inv_takeTurn hm hc h

/-! The FIFOs as queues. -/

/-- Settles O31, by `contents_put` and `contents_drop`. -/
theorem fifoPortsWorkOnQueues : Obligations.FifoPortsWorkOnQueues := by
  unfold Obligations.FifoPortsWorkOnQueues
  intro v s htx hrx hmdis
  refine ⟨fun hmstr hctas hroom => ?_, fun hcnt => ?_⟩
  · exact ⟨_, execWrPushr_admitted hmstr hmdis hctas hroom, contents_put (dtx_cases _) _ hroom, put_ok _ htx hroom⟩
  · exact ⟨_, execRdPopr_admitted hmdis hcnt, contents_drop (drx_cases _) hrx.2 hcnt, drop_ok (drx_cases _) hrx⟩

/-- The window of slot (ptr + k) mod depth answers the k-th entry of the queue (10_state.md R33). -/
theorem getElem?_contents_answerSlot {depth : Nat} (hd : depth = 1 ∨ depth = 4) {f : Fifo} {k : Nat} {j : Fin 4}
    (hf : FifoOk depth f) (hk : k < f.cnt) (hj : j.val = (f.ptr.val + k) % depth) (s : State) :
    (f.contents depth)[k]? = some (answerSlot depth f j s).rdata := by
  have hslot : slotIndex depth (f.ptr.val + k) = j := Fin.ext (by rw [slotIndex_val hd, hj])
  have hvalid : f.valid depth j.val = true := valid_of_position hd hf hk hj
  simp [Fifo.contents, answerSlot, hvalid, hk, hslot]

/-- Settles O32: each window reads its slot with `answerSlot`. -/
theorem windowsShowTheQueue : Obligations.WindowsShowTheQueue := by
  unfold Obligations.WindowsShowTheQueue
  intro s k j txWindow rxWindow
  have htx : exec txWindow s = .next (answerSlot (dtx s.mcr) s.txf j s) := by fin_cases j <;> rfl
  have hrx : exec rxWindow s = .next (answerSlot (drx s.mcr) s.rxf j s) := by fin_cases j <;> rfl
  exact ⟨fun hf hk hj => ⟨_, htx, getElem?_contents_answerSlot (dtx_cases _) hf hk hj s⟩,
    fun hf hk hj => ⟨_, hrx, getElem?_contents_answerSlot (drx_cases _) hf hk hj s⟩⟩

/-- Settles O42: a FrameStart that is not refused launches the oldest entry, and FrameEnd with room puts the received word. -/
theorem sequencerMovesQueueHeads : Obligations.SequencerMovesQueueHeads := by
  unfold Obligations.SequencerMovesQueueHeads
  intro s htx hrx
  refine ⟨fun hstart hclean => ?_, fun hend hroom => ?_⟩
  · obtain ⟨_, _, hidle, hcnt, _⟩ := (frameStartEnabled_iff s).1 hstart
    rcases sequencerMove_cases s with ⟨he, _⟩ | ⟨_, _, hs⟩ | ⟨_, he, _⟩
    · simp [frameEndEnabled, hidle] at he
    · rw [hs] at hclean ⊢
      rcases frameStart_cases s with ⟨r, hr⟩ | ⟨w, _, _, hl⟩
      · rw [hr] at hclean; cases hclean
      · rw [hl]; exact ⟨contents_drop (dtx_cases _) htx.2 hcnt, rfl⟩
    · rw [hstart] at he; cases he
  · rcases sequencerMove_cases s with ⟨_, hs⟩ | ⟨he, _⟩ | ⟨he, _⟩
    · rw [hs]
      refine ⟨?_, rfl⟩
      simpa [frameEnd, hroom, lowBits] using contents_put (drx_cases _) (lowBits s.seq.n (Config.freeWord s.draws)) hroom
    all_goals rw [hend] at he; cases he

/-! The status flags, the environment and reset. -/

/-- The four stored status flags are the same (10_state.md R26). -/
abbrev SameFlags (s t : State) : Prop := t.tcf = s.tcf ∧ t.eoqf = s.eoqf ∧ t.tfuf = s.tfuf ∧ t.rfof = s.rfof

/-- Only WR_SR touches a stored flag (10_state.md R41). -/
theorem sameFlags_of_effect {i : Instr} {s t : State} (he : AccessEffect s i t) (hi : ∀ v, i ≠ .wrSr v) : SameFlags s t := by
  cases he with
  | wroteMcr v => rw [(writeMcr_spec v s _ rfl).1]; exact ⟨rfl, rfl, rfl, rfl⟩
  | clearedFlags v => exact absurd rfl (hi v)
  | _ => exact ⟨rfl, rfl, rfl, rfl⟩

/-- Settles O34: WR_SR keeps of each flag at most what was set, and every other access keeps the flags. -/
theorem noAccessSetsAFlag : Obligations.NoAccessSetsAFlag := by
  unfold Obligations.NoAccessSetsAFlag
  intro i s t h
  by_cases hi : ∀ v, i ≠ .wrSr v
  · obtain ⟨h1, h2, h3, h4⟩ := sameFlags_of_effect (exec_effect h) hi
    exact ⟨h1 ▸ id, h2 ▸ id, h3 ▸ id, h4 ▸ id, fun _ => ⟨h1, h2, h3, h4⟩⟩
  · obtain ⟨v, rfl⟩ : ∃ v, i = .wrSr v := by simpa using hi
    cases h
    refine ⟨?_, ?_, ?_, ?_, fun h => absurd rfl (h v)⟩ <;> simp +contextual

/-- An unrefused state after `check_slave`: only the mark can have changed (60_exceptions.md R226). -/
theorem checkSlave_of_unrefused {u : State} (h : u.refused = none) :
    checkSlave u = { u with refused := (checkSlave u).refused } ∧
    (checkSlave u).refused = if running (checkSlave u) = true ∧ u.mcr.mstr = false then some .slaveMode else none :=
  ⟨checkSlave_eq u, by simp [checkSlave_refused, h]⟩

/-- Settles O48: the turn sets its input, and what follows is `check_slave`. -/
theorem environmentActionsSetTheirInput : Obligations.EnvironmentActionsSetTheirInput := by
  unfold Obligations.EnvironmentActionsSetTheirInput
  intro s ts b hc
  have hstep : ∀ a, s.turns = a :: ts → step s = takeTurn a { s with turns := ts } := fun a ha => by
    rw [step_clean hc, move, ha]
  exact ⟨fun ht => ⟨_, hstep _ ht, checkSlave_of_unrefused hc.2⟩, fun ht => ⟨_, hstep _ ht, checkSlave_of_unrefused hc.2⟩,
    fun ht => ⟨_, hstep _ ht, checkSlave_of_unrefused hc.2⟩⟩

/-- Settles O1, by evaluating the reset state and the reads of it. -/
theorem resetLeavesTheSpecsValues : Obligations.ResetLeavesTheSpecsValues := by
  unfold Obligations.ResetLeavesTheSpecsValues
  have hvalid : ∀ j : Fin 4, State.reset.txf.valid (dtx State.reset.mcr) j.val = false ∧
      State.reset.rxf.valid (drx State.reset.mcr) j.val = false := by decide
  exact ⟨rfl, rfl, rfl, rfl, rfl, rfl, ⟨rfl, rfl, rfl, rfl⟩, rfl, rfl, ⟨rfl, rfl, rfl, rfl⟩, hvalid,
    ⟨rfl, rfl, rfl, rfl, rfl⟩, ⟨rfl, rfl, rfl⟩⟩

end Sys2Proof.Machine

/-! SUPPORT. The proofs of the statements about the window (20_memory.md): the bus checks and the fetch, and what an access or a
move of the sequencer leaves unchanged. Which instruction can make which change is said once, by `AccessChange`. -/

namespace Sys2Proof.Machine

/-! From the host's operation to the instruction. -/

/-- An access that is not 4 bytes wide at a mapped offset is no row (30_encoding.md R81). -/
theorem decodeAccess_illegal {a : BusAccess} (h : ¬(a.size = 4 ∧ a.off ∈ mappedOffsets)) :
    decodeAccess a = .illegal (busReason a) := by
  cases hd : decodeSelector a.selector a.data with
  | none => simp [decodeAccess, hd]
  | some i =>
    obtain ⟨hsize, hoff, _⟩ := access_of_decodeAccess (a := a) (i := i) (by simp [decodeAccess, hd])
    exact absurd ⟨hsize, hoff⟩ h

/-- With the clock gate off, every access records ClockGated with the address and changes nothing else (20_memory.md R65). -/
theorem busAccess_gated {s : State} (hk : s.clkEn = false) (a : BusAccess) :
    busAccess a s = .next (raiseFault (.busError (Config.spiBase + a.off.setWidth 32) .clockGated) s) := by
  simp [busAccess, hk, windowAddr_eq]

/-- With the clock on, an access that is no row records its bus error with the address and changes nothing else
(20_memory.md R60). -/
theorem busAccess_illegal {a : BusAccess} {s : State} (hk : s.clkEn = true) (h : ¬(a.size = 4 ∧ a.off ∈ mappedOffsets)) :
    busAccess a s = .next (raiseFault (.busError (Config.spiBase + a.off.setWidth 32) (busReason a)) s) := by
  simp [busAccess, hk, decodeAccess_illegal h, windowAddr_eq]

/-- Settles O8: an access that fails a check is no row, and `busReason` names the first check that it fails. -/
theorem busChecksRecordTheirFault : Obligations.BusChecksRecordTheirFault := by
  unfold Obligations.BusChecksRecordTheirFault
  intro a s reserved addr
  refine ⟨fun hk => busAccess_gated hk a, fun hk hsize => ?_, fun hk hsize halign => ?_, fun hk hsize halign hres => ?_⟩
  · rw [busAccess_illegal hk fun h => hsize h.1, busReason, if_pos hsize]; rfl
  · rw [busAccess_illegal hk fun h => halign ((mem_mappedOffsets _).1 h.2).1, busReason, if_neg (not_not.2 hsize),
      if_pos halign]; rfl
  · rw [busAccess_illegal hk fun h => ((mem_mappedOffsets _).1 h.2).2 hres, busReason, if_neg (not_not.2 hsize),
      if_neg (not_not.2 halign)]; rfl

/-- Settles O7: the host's turn makes its next operation, and an access that decodes runs its row. -/
theorem stepRunsTheDecodedAccess : Obligations.StepRunsTheDecodedAccess := by
  unfold Obligations.StepRunsTheDecodedAccess
  intro s a dst ops ts i hc ht ho hk hi
  rw [step_host hc ht ho, hostOp]
  exact congrArg (deliverTo _) (busAccess_row hk hi)

/-- Settles O9: the host's turn makes its next operation, and a fetch raises its own bus error. -/
theorem fetchFromTheWindowIsABusError : Obligations.FetchFromTheWindowIsABusError := by
  unfold Obligations.FetchFromTheWindowIsABusError
  intro s off ops ts hc ht ho
  rw [step_host hc ht ho, hostOp, busFetch, windowAddr_eq, raiseFault]

/-! Which instruction changes what. -/

/-- What an instruction can change, by instruction (20_memory.md R68): a mark is left only by a write or by RD_POPR, an
answer is given only by a read, and each register and FIFO has its own writers. `AccessEffect` says what becomes of the state;
this says whose doing it can be. -/
inductive AccessChange (s : State) : Instr → State → Prop where
  | marked {i : Instr} (source : i.access.write = true ∨ i = .rdPopr) (fs : List Fault) (r : Option Refusal) :
      AccessChange s i { s with faults := fs, refused := r }
  | answered {i : Instr} (read : i.access.write = false) (v : Word) (n : Nat) :
      AccessChange s i { s with rdata := v, draws := n }
  | wroteMcr (v : Word) (m : Mcr) (tx rx : Fifo) (r : Option Refusal) (up : Bool) :
      AccessChange s (.wrMcr v) { s with mcr := m, txf := tx, rxf := rx, refused := r, broughtUp := up }
  | wroteTcr (v : Word) : AccessChange s (.wrTcr v) { s with tcnt := unpackTcr v }
  | wroteCtar0 (v : Word) : AccessChange s (.wrCtar0 v) { s with ctar0 := v }
  | wroteCtar1 (v : Word) : AccessChange s (.wrCtar1 v) { s with ctar1 := v }
  | wroteSr (v : Word) (r : Option Refusal) : AccessChange s (.wrSr v) { clearFlags v s with refused := r }
  | wroteRser (v : Word) : AccessChange s (.wrRser v) { s with rser := unpackRser v }
  | pushed (v : Word) (f : Fifo) : AccessChange s (.wrPushr v) { s with txf := f }
  | popped (v : Word) (f : Fifo) : AccessChange s .rdPopr { s with rdata := v, rxf := f }

theorem accessChange_answerSlot {i : Instr} (read : i.access.write = false) (depth : Nat) (f : Fifo) (j : Fin 4) (s : State) :
    AccessChange s i (answerSlot depth f j s) := by
  rw [answerSlot_frame]; exact .answered read _ _

/-- What an instruction answers is one of the changes that are its own. -/
theorem exec_change {i : Instr} {s t : State} (h : exec i s = .next t) : AccessChange s i t := by
  cases i
  case wrMcr v =>
    rcases execWrMcr_cases v s with ⟨r, _, h'⟩ | ⟨_, h'⟩ <;> cases h'.symm.trans h
    · exact .marked (.inl rfl) _ _
    · rw [(writeMcr_spec v s _ rfl).1]; exact .wroteMcr v _ _ _ _ _
  case wrSr v => cases h; rw [checkSlave_eq]; exact .wroteSr v _
  case wrPushr v =>
    rcases execWrPushr_cases v s with ⟨r, h'⟩ | ⟨f, h'⟩ | ⟨_, _, h'⟩ <;> cases h'.symm.trans h
    · exact .marked (.inl rfl) _ _
    · exact .marked (.inl rfl) _ _
    · exact .pushed v _
  case rdPopr =>
    rcases execRdPopr_cases s with ⟨r, h'⟩ | h' | ⟨_, h'⟩ <;> cases h'.symm.trans h
    · exact .marked (.inr rfl) _ _
    · exact .answered rfl _ _
    · exact .popped _ _
  case rdMcr | rdTcr | rdCtar0 | rdCtar1 | rdSr | rdRser | rdPushr => cases h; exact .answered rfl _ _
  case rdTxfr0 | rdTxfr1 | rdTxfr2 | rdTxfr3 | rdRxfr0 | rdRxfr1 | rdRxfr2 | rdRxfr3 =>
    cases h; exact accessChange_answerSlot rfl _ _ _ s
  case wrPopr | wrTxfr0 | wrTxfr1 | wrTxfr2 | wrTxfr3 | wrRxfr0 | wrRxfr1 | wrRxfr2 | wrRxfr3 =>
    cases h; exact .marked (.inl rfl) _ _
  case wrTcr v => cases h; exact .wroteTcr v
  case wrCtar0 v => cases h; exact .wroteCtar0 v
  case wrCtar1 v => cases h; exact .wroteCtar1 v
  case wrRser v => cases h; exact .wroteRser v

/-- Settles O33: of the changes that are a read's own, only the pop and the refused pop are more than an answer. -/
theorem readsHaveNoSideEffect : Obligations.ReadsHaveNoSideEffect := by
  unfold Obligations.ReadsHaveNoSideEffect
  intro i s hread hpopr
  obtain ⟨t, ht⟩ := exec_next i s
  refine ⟨t, ht, ?_⟩
  cases exec_change ht with
  | answered => rfl
  | marked source =>
    rcases source with hwrite | hi
    · cases hread.symm.trans hwrite
    · exact absurd hi hpopr
  | popped => exact absurd rfl hpopr
  | _ => cases hread

/-- Settles O35: a change either leaves the register or FIFO as it was, or is its writer's own, which the premise excludes. -/
theorem registersChangeOnlyByTheirOwnWrite : Obligations.RegistersChangeOnlyByTheirOwnWrite := by
  unfold Obligations.RegistersChangeOnlyByTheirOwnWrite
  intro i s t h
  cases exec_change h <;> simp

/-- A write answers nothing and draws nothing (20_memory.md R60). -/
theorem write_answers_nothing {i : Instr} {s t : State} (h : exec i s = .next t) (hwrite : i.access.write = true) :
    t.rdata = s.rdata ∧ t.draws = s.draws := by
  cases exec_change h with
  | answered read => cases read.symm.trans hwrite
  | popped => cases hwrite
  | _ => exact ⟨rfl, rfl⟩

/-- Settles O36: `exec_frame` is the frame, and `write_answers_nothing` the clause about writes. -/
theorem accessesLeaveTheFrameInFlightAlone : Obligations.AccessesLeaveTheFrameInFlightAlone := by
  unfold Obligations.AccessesLeaveTheFrameInFlightAlone
  intro i s t h
  obtain ⟨hframe, hfaults⟩ := exec_frame i s t h
  have hsilent := write_answers_nothing h
  rw [hframe]
  exact ⟨rfl, rfl, rfl, rfl, rfl, rfl, rfl, rfl, hfaults, hsilent⟩

/-! What the sequencer leaves alone. -/

/-- What a move of the sequencer can change: the counter, the flags but TFUF, the FIFOs, the frame in flight with its chip selects
and its trace, the refusal and the count of draws (45_transfer_sequencer.md R183, R185); and it clears no flag. -/
def SequencerFrame (s t : State) : Prop :=
  t = { s with tcnt := t.tcnt, tcf := t.tcf, eoqf := t.eoqf, rfof := t.rfof, txf := t.txf, rxf := t.rxf, seq := t.seq,
               pcsAct := t.pcsAct, refused := t.refused, trace := t.trace, draws := t.draws } ∧
  (s.tcf = true → t.tcf = true) ∧ (s.eoqf = true → t.eoqf = true) ∧ (s.rfof = true → t.rfof = true)

theorem sequencerFrame_frameEnd (d : Word) (n : Nat) (s : State) : SequencerFrame s (frameEnd d { s with draws := n }) :=
  ⟨rfl, fun _ => rfl, fun h => by simp [frameEnd, h], fun h => by simp [frameEnd, h]⟩

theorem sequencerFrame_frameStart (s : State) : SequencerFrame s (frameStart s) := by
  rcases frameStart_cases s with ⟨r, h⟩ | ⟨w, _, _, h⟩ <;> rw [h] <;> exact ⟨rfl, id, id, id⟩

/-- No move of the sequencer changes more than its frame. -/
theorem sequencerMove_frame (s : State) : SequencerFrame s (sequencerMove s) := by
  rcases sequencerMove_cases s with ⟨_, h⟩ | ⟨_, _, h⟩ | ⟨_, _, h⟩ <;> rw [h]
  · exact sequencerFrame_frameEnd _ _ s
  · exact sequencerFrame_frameStart s
  · exact ⟨rfl, id, id, id⟩

/-- Settles O41: `sequencerMove_frame`, field by field. -/
theorem sequencerLeavesTheConfigurationAlone : Obligations.SequencerLeavesTheConfigurationAlone := by
  unfold Obligations.SequencerLeavesTheConfigurationAlone
  intro s t
  obtain ⟨hframe, hflags⟩ := sequencerMove_frame s
  rw [show t = _ from hframe]
  exact ⟨rfl, rfl, rfl, rfl, rfl, rfl, rfl, rfl, rfl, rfl, rfl, rfl, rfl, hflags⟩

end Sys2Proof.Machine

/-! SUPPORT. The proofs of the statements about the encoding (30_encoding.md): instructions and their bytes, the rows of the opcode
table, and the host's polls and read-modify-writes. -/

namespace Sys2Proof.Machine

/-! Instructions and their bytes. -/

/-- Settles O3: the selector gives itself back with bit W saying whether a data word follows, and that word gives itself back. -/
theorem decodeOfEncodeIsTheInstruction : Obligations.DecodeOfEncodeIsTheInstruction := by
  unfold Obligations.DecodeOfEncodeIsTheInstruction
  intro i rest
  have hrow := decodeWithRest_opcode i rest
  rw [encode, List.append_assoc, decodeBytes_selector, opcode_write]
  cases hv : i.operand with
  | none => simpa [hv] using hrow
  | some v => simpa [hv, bytesOfWord, wordOfBytes_extract] using hrow

/-- What is decoded from a selector and a data word has that selector, and that word where W is 1. -/
theorem of_decodeWithRest {sel : Selector} {v : Word} {bs rest : List Byte} {i : Instr}
    (h : decodeWithRest sel v bs = .row i rest) :
    rest = bs ∧ i.opcode = sel ∧ i.operand = if sel.getLsbD 12 then some v else none := by
  unfold decodeWithRest at h
  split at h
  · next hrow =>
    cases h
    obtain ⟨hsel, hdata⟩ := of_decodeAccess hrow
    exact ⟨rfl, hsel.trans (selector_accessOfSelector sel v), hdata⟩
  · cases h

/-- Bytes that decode to an instruction begin with the two bytes of a selector. -/
theorem exists_selector_of_decodeBytes {bs rest : List Byte} {i : Instr} (h : decodeBytes bs = .row i rest) :
    ∃ sel tail, bs = bytesOfSelector sel ++ tail := by
  match bs, h with
  | b0 :: b1 :: tail, h =>
    have hbit : (halfOfBytes b0 b1).getLsbD 15 = false := by
      by_contra hone
      rw [decodeBytes, if_pos (by simpa using hone)] at h
      cases h
    exact ⟨_, tail, by rw [bytesOfSelector_halfOfBytes hbit]; rfl⟩

/-- Settles O4: the bytes begin with a selector, whose bit W says whether the four bytes after it are the data word. -/
theorem decodedBytesAreTheEncoding : Obligations.DecodedBytesAreTheEncoding := by
  unfold Obligations.DecodedBytesAreTheEncoding
  intro bs i rest h
  obtain ⟨sel, tail, rfl⟩ := exists_selector_of_decodeBytes h
  rw [decodeBytes_selector] at h
  split at h
  · next hwrite =>
    split at h
    · next d0 d1 d2 d3 tail =>
      obtain ⟨rfl, rfl, hdata⟩ := of_decodeWithRest h
      rw [if_pos hwrite] at hdata
      simp [encode, hdata, bytesOfWord_wordOfBytes]
    · cases h
  · next hread =>
    obtain ⟨rfl, rfl, hdata⟩ := of_decodeWithRest h
    rw [if_neg hread] at hdata
    simp [encode, hdata]

/-! The rows of the opcode table. -/

/-- The match values of the rows are distinct (30_encoding.md R83). -/
theorem opcodeTable_values_nodup : (opcodeTable.map OpcodeRow.value).Nodup := by decide

/-- Settles O5: all rows have one mask, so a selector on two rows would give them one match value. -/
theorem opcodeRowsAreDisjoint : Obligations.OpcodeRowsAreDisjoint := by
  unfold Obligations.OpcodeRowsAreDisjoint
  refine (List.pairwise_map.1 opcodeTable_values_nodup).imp_of_mem fun {r r'} hr hr' hne sel ⟨hv, hv'⟩ => hne ?_
  have hmask : r.mask = r'.mask := (opcodeTable_rows r hr).1.trans (opcodeTable_rows r' hr').1.symm
  rw [← hv, ← hv', hmask]

/-- Settles O6: the rows are the accesses 4 bytes wide at a mapped offset, and `busReason` names what fails of any other. -/
theorem onlyLegalAccessesSelectARow : Obligations.OnlyLegalAccessesSelectARow := by
  unfold Obligations.OnlyLegalAccessesSelectARow
  intro a
  refine ⟨fun hsize => ?_, fun hsize halign => ?_, fun hsize halign hres => ?_, fun hsize halign hres => ?_⟩
  · rw [decodeAccess_illegal fun h => hsize h.1, busReason, if_pos hsize]
  · rw [decodeAccess_illegal fun h => halign ((mem_mappedOffsets _).1 h.2).1, busReason, if_neg (not_not.2 hsize), if_pos halign]
  · rw [decodeAccess_illegal fun h => ((mem_mappedOffsets _).1 h.2).2 hres, busReason, if_neg (not_not.2 hsize),
      if_neg (not_not.2 halign)]
  · obtain ⟨i, hi⟩ := decodeAccess_mapped hsize ((mem_mappedOffsets _).2 ⟨halign, hres⟩)
    obtain ⟨_, _, haccess⟩ := access_of_decodeAccess hi
    exact ⟨i, hi, haccess⟩

/-- Settles O2: each row answers for its own selector, which is the one written out, and no row is 1 byte wide. -/
theorem writtenOutSelectorsDecode : Obligations.WrittenOutSelectorsDecode := by
  unfold Obligations.WrittenOutSelectorsDecode
  exact ⟨decodeSelector_opcode (.wrPushr 0x80010010#32), decodeSelector_opcode .rdMcr,
    decodeSelector_opcode (.wrTcr 0xFFFF1234#32), decodeSelector_opcode .rdCtar1, decodeSelector_opcode .rdSr,
    decodeSelector_opcode .rdPopr, decodeSelector_opcode .rdTxfr3, decodeSelector_opcode (.wrRxfr0 7#32), by decide, by decide⟩

/-! The host's polls and read-modify-writes. -/

/-- A budget with a read left goes on with one read less, and no budget goes on without one (46_driver_sequences.md R215). -/
theorem spend_of_left {budget left : Option Nat}
    (h : (budget = none ∧ left = none) ∨ (∃ k, budget = some (k + 1) ∧ left = some k)) :
    budget ≠ some 0 ∧ spend budget = left := by
  rcases h with ⟨rfl, rfl⟩ | ⟨k, rfl, rfl⟩ <;> simp [spend]

/-- What follows the first return of a list of operations. -/
theorem afterReturn_append {pre : List HostOp} (hpre : ∀ o ∈ pre, o ≠ .retByte ∧ ∀ r, o ≠ .ret r) {last : HostOp}
    (hlast : last = .retByte ∨ ∃ r, last = .ret r) (ops : List HostOp) : afterReturn (pre ++ last :: ops) = ops := by
  induction pre with
  | nil => rcases hlast with rfl | ⟨r, rfl⟩ <;> rfl
  | cons o pre ih =>
    obtain ⟨⟨hbyte, hret⟩, hpre⟩ := List.forall_mem_cons.1 hpre
    have hskip : afterReturn (o :: (pre ++ last :: ops)) = afterReturn (pre ++ last :: ops) := by
      cases o with
      | ret r => exact absurd rfl (hret r)
      | retByte => exact absurd rfl hbyte
      | _ => rfl
    exact hskip.trans (ih hpre)

/-- The condition that a field below m meets a test: one comparison for each value that does. -/
def pollCondBelow (test : Nat → Bool) : Nat → PollCond
  | 0 => .both (.equal 0) (.differs 0)
  | m + 1 => if test m then .either (.equal m) (pollCondBelow test m) else pollCondBelow test m

theorem holds_pollCondBelow (test : Nat → Bool) (m n : Nat) :
    (pollCondBelow test m).holds n = true ↔ n < m ∧ test n = true := by
  induction m with
  | zero => simp [pollCondBelow]
  | succ m ih =>
    rw [pollCondBelow, Nat.lt_succ_iff_lt_or_eq]
    split
    · next htest => rw [PollCond.holds_either, PollCond.holds_equal, ih]; grind
    · next htest => rw [ih]; grind

/-- Every test of a field is the condition of some poll (30_encoding.md R92). -/
theorem exists_pollCond (off : Offset) (lo len : Nat) (test : Nat → Bool) :
    ∃ c : PollCond, ∀ w : Word, (PollSpec.mk off lo len c).holds w = test (w.extractLsb' lo len).toNat :=
  ⟨pollCondBelow test (2 ^ len), fun w => Bool.eq_iff_iff.2 <|
    (holds_pollCondBelow test _ _).trans (and_iff_right (w.extractLsb' lo len).isLt)⟩

/-- Settles O54, by `deliverTo_busAccess` for the read, `exists_pollCond` and `afterReturn_append`. -/
theorem pollsRepeatUntilMetOrSpent : Obligations.PollsRepeatUntilMetOrSpent := by
  unfold Obligations.PollsRepeatUntilMetOrSpent
  refine ⟨fun s p budget ops ts hc ht => ⟨fun left hleft ho => ?_, fun ho hmet => ?_, fun ho hunmet => ?_⟩, exists_pollCond,
    fun s pre ops last ts hc ht hpre hlast ho => ?_⟩
  · obtain ⟨hbudget, rfl⟩ := spend_of_left hleft
    rw [step_host hc ht ho, hostOp, if_neg hbudget]
    exact deliverTo_busAccess .t _ _
  · rw [step_host hc ht ho, hostOp, if_pos hmet]
  · rw [step_host hc ht ho, hostOp, if_neg (by simpa using hunmet)]; rfl
  · have hrest := afterReturn_append hpre hlast ops
    rcases ho with ⟨p, ho⟩ | ho <;>
    · rw [step_host hc ht ho, hostOp, if_pos rfl, failWith, hrest]; rfl

/-- Settles O53: the host's turn makes its next operation. -/
theorem readModifyWriteMergesThenWrites : Obligations.ReadModifyWriteMergesThenWrites := by
  unfold Obligations.ReadModifyWriteMergesThenWrites
  intro s ops ts off clear set hc ht
  exact ⟨fun ho => step_host hc ht ho, fun ho => step_host hc ht ho⟩

end Sys2Proof.Machine

/-! SUPPORT. The proofs of the statements about MCR and TCR (41_module_control.md). The two round trips of MCR's packing say where
each field stands and which bits of a word are fields; the checks of WR_MCR are read off `mcrRefusal`. -/

namespace Sys2Proof.Machine

/-! A field put back in its place. -/

/-- A field taken from a word and put back in its place is the word with every other bit 0. -/
theorem place_field (v : Word) (lo len : Nat) : place (field v lo len) lo = v &&& place (BitVec.allOnes len) lo := by
  apply BitVec.eq_of_getLsbD_eq
  intro i hi
  rw [BitVec.getLsbD_and, getLsbD_place, getLsbD_place, field, BitVec.getLsbD_extractLsb', BitVec.getLsbD_allOnes]
  by_cases hlo : lo ≤ i
  · simp [hi, hlo, Bool.and_comm]
  · simp [hlo]

/-- A bit taken from a word and put back in its place is the word with every other bit 0. -/
theorem placeBit_bit (v : Word) (i : Nat) : placeBit (bit v i) i = v &&& placeBit true i := by
  apply BitVec.eq_of_getLsbD_eq
  intro j hj
  rw [BitVec.getLsbD_and, getLsbD_placeBit, getLsbD_placeBit, bit]
  by_cases hji : j = i
  · subst hji; simp [hj]
  · simp [hji]

/-! The packing of MCR. -/

/-- A written word read back keeps the bits of the stored fields, DCONF among them (30_encoding.md R87). -/
theorem packMcr_unpackMcr (v : Word) : packMcr (unpackMcr v) = v &&& 0xFF3FF301#32 := by
  simp only [packMcr, unpackMcr, mcrDconf, mcrMdis, mcrDisTxf, mcrDisRxf, place_field, placeBit_bit, ← BitVec.and_or_distrib_left]
  rfl

/-- Each field of MCR stands in the packed word where a write takes it from (10_state.md R22). -/
theorem unpackMcr_packMcr (m : Mcr) : unpackMcr (packMcr m) = m := by
  obtain ⟨hdconf, hpcsis, hsmplPt⟩ :
      field (packMcr m) 28 2 = m.dconf ∧ field (packMcr m) 16 6 = m.pcsis ∧ field (packMcr m) 8 2 = m.smplPt := by
    refine ⟨?_, ?_, ?_⟩ <;>
    · apply BitVec.eq_of_getLsbD_eq
      intro i hi
      interval_cases i <;> simp [field, packMcr]
  rw [unpackMcr, mcrDconf, hdconf, hpcsis, hsmplPt]
  simp [packMcr, bit, mcrMdis, mcrDisTxf, mcrDisRxf]

/-- The bits of a packed word that are no stored field are 0 (10_state.md R23). -/
theorem packMcr_reserved (m : Mcr) : packMcr m &&& 0x00C00CFE#32 = 0#32 := by
  rw [← unpackMcr_packMcr m, packMcr_unpackMcr, BitVec.and_assoc]
  exact BitVec.and_zero

/-- Settles O12: the answer is the packed MCR, and its fields are the fields that unpacking it gives. -/
theorem mcrReadShowsEveryField : Obligations.McrReadShowsEveryField := by
  unfold Obligations.McrReadShowsEveryField
  intro s
  have h := unpackMcr_packMcr s.mcr
  exact ⟨_, rfl, rfl, congrArg Mcr.mstr h, congrArg Mcr.contScke h, congrArg Mcr.dconf h, congrArg Mcr.frz h, congrArg Mcr.mtfe h,
    congrArg Mcr.pcsse h, congrArg Mcr.rooe h, congrArg Mcr.pcsis h, congrArg Mcr.doze h, congrArg Mcr.mdis h,
    congrArg Mcr.disTxf h, congrArg Mcr.disRxf h, congrArg Mcr.smplPt h, congrArg Mcr.halt h, packMcr_reserved s.mcr⟩

/-! The checks of WR_MCR. -/

/-- The checks of WR_MCR in their order (41_module_control.md R101), with the two changes of a FIFO's mode as one check. -/
theorem mcrRefusal_eq (v : Word) (s : State) :
    mcrRefusal v s =
      if v.extractLsb' 28 2 ≠ 0#2 then some .reservedDconf
      else if (v.getLsbD 13 ≠ s.mcr.disTxf ∧ 0 < s.txf.cnt) ∨ (v.getLsbD 12 ≠ s.mcr.disRxf ∧ 0 < s.rxf.cnt) then
        some .fifoDisableChange
      else if (v.getLsbD 11 = true ∨ v.getLsbD 10 = true) ∧ v.getLsbD 14 = true then some .fifoOpWhileDisabled
      else none := by
  simp only [mcrRefusal, mcrDconf, field, mcrDisTxf, mcrDisRxf, mcrClrTxf, mcrClrRxf, mcrMdis, bit, ite_or, Bool.and_eq_true,
    Bool.or_eq_true]

/-- A WR_MCR that a check refuses leaves its mark and writes no field (41_module_control.md R101). -/
theorem execWrMcr_refused {v : Word} {s : State} {r : Refusal} (h : mcrRefusal v s = some r) :
    execWrMcr v s = .next (refuse r s) := by
  rw [execWrMcr, h]

/-- A WR_MCR that no check refuses is the write (41_module_control.md R101). -/
theorem execWrMcr_admitted {v : Word} {s : State} (h : mcrRefusal v s = none) : execWrMcr v s = .next (writeMcr v s) := by
  rw [execWrMcr, h]

/-- Settles O13: each refusal is the first check of `mcrRefusal` that fires, and where none does, `writeMcr_spec` says what is
written. -/
theorem mcrWriteChecksThenStoresItsFields : Obligations.McrWriteChecksThenStoresItsFields := by
  unfold Obligations.McrWriteChecksThenStoresItsFields
  intro v s reserved txfChange rxfChange disabledFlush
  have hchecks := mcrRefusal_eq v s
  refine ⟨fun hres => execWrMcr_refused ?_, fun hres hchg => execWrMcr_refused ?_,
    fun hres hchg hflush => execWrMcr_refused ?_, fun hres hchg hflush => ?_⟩
  · rw [hchecks, if_pos hres]
  · rw [hchecks, if_neg hres, if_pos hchg]
  · rw [hchecks, if_neg hres, if_neg hchg, if_pos hflush]
  · have hadmitted : mcrRefusal v s = none := by rw [hchecks, if_neg hres, if_neg hchg, if_neg hflush]
    obtain ⟨hframe, hmcr, _, hfifos⟩ := writeMcr_spec v s _ rfl
    exact ⟨_, execWrMcr_admitted hadmitted, hframe, hmcr, hfifos⟩

/-- Settles O14: the write stores the word's fields, and with DCONF 00 its bits of the word are 0 too. -/
theorem mcrReadsBackWhatWasWritten : Obligations.McrReadsBackWhatWasWritten := by
  unfold Obligations.McrReadsBackWhatWasWritten
  intro v s hdconf htx hrx hflush
  have hadmitted : mcrRefusal v s = none := (mcrRefusal_eq_none_iff v s).2 ⟨hdconf, htx, hrx, hflush⟩
  obtain ⟨_, hmcr, _⟩ := writeMcr_spec v s _ rfl
  have hzero : v &&& 0x30000000#32 = 0#32 := calc
    v &&& 0x30000000#32 = place (v.extractLsb' 28 2) 28 := (place_field v 28 2).symm
    _ = 0#32 := by rw [hdconf]; rfl
  refine ⟨_, _, execWrMcr_admitted hadmitted, rfl, ?_⟩
  calc packMcr (writeMcr v s).mcr
    _ = v &&& 0xFF3FF301#32 := by rw [hmcr, packMcr_unpackMcr]
    _ = v &&& (0xCF3FF301#32 ||| 0x30000000#32) := rfl
    _ = (v &&& 0xCF3FF301#32) ||| (v &&& 0x30000000#32) := BitVec.and_or_distrib_left
    _ = v &&& 0xCF3FF301#32 := by rw [hzero, BitVec.or_zero]

/-- Settles O15: packing the count puts it in bits 31:16, where unpacking takes it from. -/
theorem tcrReadAndWrite : Obligations.TcrReadAndWrite := by
  unfold Obligations.TcrReadAndWrite
  exact fun v s => ⟨rfl, rfl⟩

end Sys2Proof.Machine

/-! SUPPORT. The proofs of the statements about the attribute registers and the serial clock (42_clock_transfer_attributes.md). The
bounds of the ratio are those of the two tables: its denominator 1 + DBR is 1 or 2, and every scaler value is even. -/

namespace Sys2Proof.Machine

/-- Settles O16: a read answers the stored word and a write stores the whole word. -/
theorem ctarReadAndWrite : Obligations.CtarReadAndWrite := by
  unfold Obligations.CtarReadAndWrite
  exact fun v s => ⟨rfl, rfl, rfl, rfl⟩

/-! The division ratio. -/

/-- The least and the greatest prescaler value of the table (R125). -/
theorem prescalerValue_bounds : ∀ pbr : BitVec 2, 2 ≤ prescalerValue pbr ∧ prescalerValue pbr ≤ 7 := by decide

/-- The least and the greatest scaler value of the table (R126). -/
theorem scalerValue_bounds : ∀ br : BitVec 4, 2 ≤ scalerValue br ∧ scalerValue br ≤ 32768 := by decide

/-- Every scaler value is even (R130). -/
theorem two_dvd_scalerValue : ∀ br : BitVec 4, 2 ∣ scalerValue br := by decide

/-- The ratio's denominator 1 + DBR is 1 or 2 (R130). -/
theorem one_add_toNat_dvd_two : ∀ dbr : Bool, 1 + dbr.toNat ∣ 2 := by decide

/-- The division by 1 + DBR leaves no remainder, as the scaler value is even (R130). -/
theorem divRatio_mul_denominator (w : Word) :
    divRatio w * (1 + (ctarDbr w).toNat) = prescalerValue (ctarPbr w) * scalerValue (ctarBr w) :=
  Nat.div_mul_cancel (((one_add_toNat_dvd_two _).trans (two_dvd_scalerValue _)).mul_left _)

/-- The ratio is at least 2: twice it is at least the product of the least values of the two tables (R130). -/
theorem two_le_divRatio (w : Word) : 2 ≤ divRatio w := by
  have hden : 1 + (ctarDbr w).toNat ≤ 2 := Nat.le_of_dvd two_pos (one_add_toNat_dvd_two _)
  have htwice : 2 * 2 ≤ divRatio w * 2 := calc
    2 * 2 ≤ prescalerValue (ctarPbr w) * scalerValue (ctarBr w) :=
      Nat.mul_le_mul (prescalerValue_bounds _).1 (scalerValue_bounds _).1
    _ = divRatio w * (1 + (ctarDbr w).toNat) := (divRatio_mul_denominator w).symm
    _ ≤ divRatio w * 2 := Nat.mul_le_mul_left _ hden
  exact Nat.le_of_mul_le_mul_right htwice two_pos

/-- The ratio is at most the product of the greatest values of the two tables (R130). -/
theorem divRatio_le (w : Word) : divRatio w ≤ 229376 := calc
  divRatio w ≤ prescalerValue (ctarPbr w) * scalerValue (ctarBr w) := Nat.div_le_self _ _
  _ ≤ 7 * 32768 := Nat.mul_le_mul (prescalerValue_bounds _).2 (scalerValue_bounds _).2

/-- Settles O17: the tables are evaluated, and the ratio is exact by `divRatio_mul_denominator`. -/
theorem divisionRatioIsExactAndBounded : Obligations.DivisionRatioIsExactAndBounded := by
  unfold Obligations.DivisionRatioIsExactAndBounded
  exact ⟨by decide, by decide, fun w => ⟨divRatio_mul_denominator w, two_le_divRatio w, divRatio_le w⟩⟩

/-! The serial clock frequency. -/

/-- The bus clock frequency is positive (00_scope.md R13). -/
theorem fBus_pos : 0 < Config.fBus := div_pos (Nat.cast_pos.2 (Nat.succ_pos _)) (Nat.cast_pos.2 (Nat.succ_pos _))

/-- Settles O18: the ratio is at least 2, so the quotient is exact, positive and at most half of F_BUS. -/
theorem serialClockIsTheExactQuotient : Obligations.SerialClockIsTheExactQuotient := by
  unfold Obligations.SerialClockIsTheExactQuotient
  intro w
  have htwo : (2 : Rat) ≤ divRatio w := Nat.ofNat_le_cast.2 (two_le_divRatio w)
  have hpos : (0 : Rat) < divRatio w := two_pos.trans_le htwo
  exact ⟨div_mul_cancel₀ _ hpos.ne', div_pos fBus_pos hpos, div_le_div_of_nonneg_left fBus_pos.le two_pos htwo⟩

end Sys2Proof.Machine

/-! SUPPORT. The proofs of the statements about SR, RSER and the request outputs (43_status_and_requests.md). A packed word is a
disjunction of placed fields, so a field read back from it, or a mask over it, is decided field by field. -/

namespace Sys2Proof.Machine

/-! A field placed in a word. -/

/-- A field of a disjunction is the disjunction of the fields. -/
theorem field_or (a b : Word) (lo len : Nat) : field (a ||| b) lo len = field a lo len ||| field b lo len := BitVec.extractLsb'_or

/-- A placed field that fits the word is read back from its place. -/
theorem field_place_same {len : Nat} (f : BitVec len) {lo : Nat} (h : lo + len ≤ 32) : field (place f lo) lo len = f := by
  apply BitVec.eq_of_getLsbD_eq
  intro i hi
  rw [field, BitVec.getLsbD_extractLsb', getLsbD_place, Nat.add_sub_cancel_left]
  simp [hi, show lo + i < 32 by omega]

/-- A placed field leaves 0 at every place disjoint from its own. -/
theorem field_place_disjoint {m : Nat} (f : BitVec m) {k lo len : Nat} (h : lo + len ≤ k ∨ k + m ≤ lo) :
    field (place f k) lo len = 0#len := by
  apply BitVec.eq_of_getLsbD_eq
  intro i hi
  rw [field, BitVec.getLsbD_extractLsb', getLsbD_place, BitVec.getLsbD_zero]
  rcases h with hbelow | habove
  · simp [show ¬ k ≤ lo + i by omega]
  · simp [BitVec.getLsbD_of_ge f (lo + i - k) (by omega)]

/-- A mask disjoint from a field's place masks the placed field to 0. -/
theorem place_and_eq_zero {len : Nat} (f : BitVec len) {lo : Nat} {m : Word} (h : place (BitVec.allOnes len) lo &&& m = 0#32) :
    place f lo &&& m = 0#32 := by
  have hplace : place f lo &&& place (BitVec.allOnes len) lo = place f lo := by
    rw [place, place, ← BitVec.shiftLeft_and_distrib, ← BitVec.setWidth_and, BitVec.and_allOnes]
  rw [← hplace, BitVec.and_assoc, h, BitVec.and_zero]

/-! The packing of SR. -/

/-- Each flag stands at its bit of the packed word, the derived ones computed from the state (10_state.md R27). -/
theorem packSr_flags (s : State) :
    bit (packSr s) 31 = s.tcf ∧ bit (packSr s) 28 = s.eoqf ∧ bit (packSr s) 27 = s.tfuf ∧ bit (packSr s) 19 = s.rfof ∧
    bit (packSr s) 30 = running s ∧ bit (packSr s) 25 = tfff s ∧ bit (packSr s) 17 = rfdf s := by
  simp [bit, packSr, txrxs]

/-- Each counter and pointer stands at its four bits of the packed word (10_state.md R27). -/
theorem packSr_counters (s : State) :
    field (packSr s) 12 4 = nibble s.txf.cnt ∧ field (packSr s) 8 4 = nibble s.txf.ptr.val ∧
    field (packSr s) 4 4 = nibble s.rxf.cnt ∧ field (packSr s) 0 4 = nibble s.rxf.ptr.val := by
  refine ⟨?_, ?_, ?_, ?_⟩ <;>
    simp (disch := decide) only [packSr, placeBit, field_or, field_place_same, field_place_disjoint, BitVec.or_zero, BitVec.zero_or]

/-- The bits of the packed word that are no field of SR are 0 (10_state.md R27). -/
theorem packSr_reserved (s : State) : packSr s &&& 0x25F50000#32 = 0#32 := by
  simp (disch := decide) only [packSr, placeBit, BitVec.and_or_distrib_right, place_and_eq_zero, BitVec.or_zero]

/-- Settles O19: the answer is the packed SR, by `packSr_flags`, `packSr_counters` and `packSr_reserved`. -/
theorem srReadShowsFlagsAndCounts : Obligations.SrReadShowsFlagsAndCounts := by
  unfold Obligations.SrReadShowsFlagsAndCounts
  intro s
  obtain ⟨htcf, heoqf, htfuf, hrfof, htxrxs, htfff, hrfdf⟩ := packSr_flags s
  obtain ⟨htxctr, htxnxtptr, hrxctr, hpopnxtptr⟩ := packSr_counters s
  exact ⟨_, rfl, rfl, htcf, heoqf, htfuf, hrfof, htxrxs, htfff, hrfdf, htxctr, htxnxtptr, hrxctr, hpopnxtptr, packSr_reserved s⟩

/-- Settles O21: the state after the write is `check_slave` of the state with the flags cleared. -/
theorem srWriteClearsTheFlagsWrittenAsOne : Obligations.SrWriteClearsTheFlagsWrittenAsOne := by
  unfold Obligations.SrWriteClearsTheFlagsWrittenAsOne
  intro v s
  have hclear : ∀ flag written : Bool, (flag && !written) = if written = true then false else flag := by decide
  refine ⟨checkSlave (clearFlags v s), rfl, ?_, ?_, ?_, ?_, ?_, ?_⟩
  · rw [checkSlave_tcf, checkSlave_eoqf, checkSlave_tfuf, checkSlave_rfof]; exact checkSlave_eq _
  · rw [checkSlave_tcf]; exact hclear _ _
  · rw [checkSlave_eoqf]; exact hclear _ _
  · rw [checkSlave_tfuf]; exact hclear _ _
  · rw [checkSlave_rfof]; exact hclear _ _
  · simp [checkSlave_refused]

/-! The packing of RSER. -/

/-- Each field of RSER stands in the packed word where a write takes it from (10_state.md R28). -/
theorem unpackRser_packRser (r : Rser) : unpackRser (packRser r) = r := by simp [unpackRser, packRser, bit]

/-- The bits of the packed word that are no field of RSER are 0 (10_state.md R28). -/
theorem packRser_reserved (r : Rser) : packRser r &&& 0x64F4FFFF#32 = 0#32 := by
  simp (disch := decide) only [packRser, placeBit, BitVec.and_or_distrib_right, place_and_eq_zero, BitVec.or_zero]

/-- Settles O23: the answer is the packed RSER, and its fields are the fields that unpacking it gives, as a write does. -/
theorem rserReadAndWrite : Obligations.RserReadAndWrite := by
  unfold Obligations.RserReadAndWrite
  refine ⟨fun s => ?_, fun v s => rfl⟩
  have h := unpackRser_packRser s.rser
  exact ⟨_, rfl, rfl, congrArg Rser.tcfRe h, congrArg Rser.eoqfRe h, congrArg Rser.tfufRe h, congrArg Rser.tfffRe h,
    congrArg Rser.tfffDirs h, congrArg Rser.rfofRe h, congrArg Rser.rfdfRe h, congrArg Rser.rfdfDirs h, packRser_reserved s.rser⟩

/-! The request outputs. -/

/-- TFFF is up while the TX FIFO is below its effective depth (43_status_and_requests.md R146, 10_state.md R35). -/
theorem tfff_iff (s : State) : tfff s = true ↔ s.txf.cnt < if s.mcr.disTxf then 1 else 4 := decide_eq_true_iff

/-- RFDF is up while the RX FIFO holds an entry (43_status_and_requests.md R147). -/
theorem rfdf_iff (s : State) : rfdf s = true ↔ 0 < s.rxf.cnt := decide_eq_true_iff

/-- Settles O24: `tfff_iff` and `rfdf_iff` for the derived flags, and each output's terms as they stand. -/
theorem requestOutputsFollowFlagsAndEnables : Obligations.RequestOutputsFollowFlagsAndEnables := by
  unfold Obligations.RequestOutputsFollowFlagsAndEnables
  intro s
  simp only [← tfff_iff, ← rfdf_iff]
  refine ⟨?_, ?_, ?_⟩
  · simp only [irq, Bool.or_eq_true, Bool.and_eq_true, Bool.not_eq_true', or_assoc, and_assoc]
  · simp only [dmaTxReq, Bool.and_eq_true, and_assoc]
  · simp only [dmaRxReq, Bool.and_eq_true, and_assoc]

end Sys2Proof.Machine

/-! SUPPORT. The proofs of the statements about the FIFO ports and windows (44_fifo_ports.md). Of a push and a pop each outcome has
its lemma, under the conditions of its check; the eight windows read their slots by one operation. -/

namespace Sys2Proof.Machine

/-! The pushing port. -/

/-- A FIFO is full exactly where its count is its depth (10_state.md R33). -/
theorem full_iff (depth : Nat) (f : Fifo) : f.full depth = true ↔ f.cnt = depth := beq_iff_eq

/-- A put writes the slot after the newest entry and no other (10_state.md R33). -/
theorem getElem_slot_put {depth : Nat} (hd : depth = 1 ∨ depth = 4) (f : Fifo) (w : Word) (j : Fin 4) :
    (f.put depth w).slot[j] = if j.val = (f.ptr.val + f.cnt) % depth then w else f.slot[j] := by
  have hput : (f.putAt depth).val = (f.ptr.val + f.cnt) % depth := slotIndex_val hd _
  rw [← hput]
  by_cases hj : j.val = (f.putAt depth).val
  · simp [Fifo.put, hj]
  · simpa [Fifo.put, hj] using Vector.getElem_set_ne _ _ (Ne.symm hj)

/-- WR_PUSHR of a module that is no master (44_fifo_ports.md R160). -/
theorem execWrPushr_slave {v : Word} {s : State} (hm : s.mcr.mstr = false) :
    execWrPushr v s = .next (refuse .slaveMode s) := if_pos hm

section
variable {v : Word} {s : State} (hm : s.mcr.mstr = true)
include hm

/-- WR_PUSHR of a disabled master (44_fifo_ports.md R160). -/
theorem execWrPushr_disabled (hd : s.mcr.mdis = true) : execWrPushr v s = .next (refuse .fifoOpWhileDisabled s) := by
  simp [execWrPushr, hm, hd]

/-- WR_PUSHR of a word whose CTAS selects neither CTAR (44_fifo_ports.md R160). -/
theorem execWrPushr_reservedCtas (hd : s.mcr.mdis = false) (hv : 2 ≤ (entryCtas v).toNat) :
    execWrPushr v s = .next (refuse .ctasReserved s) := by
  simp [execWrPushr, hm, hd, hv]

/-- WR_PUSHR of a full TX FIFO (44_fifo_ports.md R160). -/
theorem execWrPushr_full (hd : s.mcr.mdis = false) (hv : (entryCtas v).toNat < 2) (hc : s.txf.cnt = dtx s.mcr) :
    execWrPushr v s = .next (raiseFault (.txOverflow v) s) := by
  simp [execWrPushr, hm, hd, hv, full_iff, hc]

/-- WR_PUSHR that no check stops; the count need not be within the depth (44_fifo_ports.md R160). -/
theorem execWrPushr_notFull (hd : s.mcr.mdis = false) (hv : (entryCtas v).toNat < 2) (hc : s.txf.cnt ≠ dtx s.mcr) :
    execWrPushr v s = .next { s with txf := s.txf.put (dtx s.mcr) (storedEntry v) } := by
  simp [execWrPushr, hm, hd, hv, full_iff, hc]

end

/-- Settles O25: one lemma per check, and of an admitted push `getElem_slot_put` for the slots. -/
theorem pushChecksThenStoresTheEntry : Obligations.PushChecksThenStoresTheEntry := by
  unfold Obligations.PushChecksThenStoresTheEntry
  intro v s depth
  exact ⟨execWrPushr_slave, execWrPushr_disabled, execWrPushr_reservedCtas, execWrPushr_full, fun hm hd hv hc =>
    ⟨_, execWrPushr_notFull hm hd hv hc, rfl, rfl, rfl, getElem_slot_put (dtx_cases s.mcr) s.txf (storedEntry v)⟩⟩

/-- Settles O27: the answer is the next draw. -/
theorem pushrReadAnswersAFreeValue : Obligations.PushrReadAnswersAFreeValue := by
  unfold Obligations.PushrReadAnswersAFreeValue
  exact fun s => rfl

/-! The popping port. -/

/-- RD_POPR of a disabled module (44_fifo_ports.md R162). -/
theorem execRdPopr_disabled {s : State} (hd : s.mcr.mdis = true) : execRdPopr s = .next (refuse .fifoOpWhileDisabled s) :=
  if_pos hd

/-- RD_POPR of an empty FIFO (44_fifo_ports.md R162). -/
theorem execRdPopr_empty {s : State} (hd : s.mcr.mdis = false) (hc : s.rxf.cnt = 0) : execRdPopr s = .next (answerDraw s) := by
  simp [execRdPopr, hd, hc]

/-- Settles O26: one lemma per case, and of an admitted pop the new pointer by `slotIndex_val`. -/
theorem popAnswersTheOldestEntry : Obligations.PopAnswersTheOldestEntry := by
  unfold Obligations.PopAnswersTheOldestEntry
  intro s depth
  exact ⟨execRdPopr_disabled, execRdPopr_empty, fun hd hc =>
    ⟨_, execRdPopr_admitted hd hc, rfl, rfl, rfl, slotIndex_val (drx_cases s.mcr) _, rfl⟩⟩

/-! The windows. -/

/-- An access that reads slot j of a FIFO answers its entry where the slot is valid, as 10_state.md R33 says when, and else a free
value. -/
theorem exec_window {i : Instr} {depth : Nat} {f : Fifo} {j : Fin 4} {s : State} (hexec : exec i s = .next (answerSlot depth f j s)) :
    (j.val < depth ∧ ((j.val : Int) - f.ptr.val) % depth < f.cnt → exec i s = .next { s with rdata := f.slot[j] }) ∧
    (¬(j.val < depth ∧ ((j.val : Int) - f.ptr.val) % depth < f.cnt) →
      exec i s = .next { s with rdata := Config.freeWord s.draws, draws := s.draws + 1 }) := by
  rw [← valid_iff, hexec]
  rcases answerSlot_eq depth f j s with ⟨hvalid, h⟩ | ⟨hvalid, h⟩ <;> rw [h]
  · exact ⟨fun _ => rfl, fun hn => absurd hvalid hn⟩
  · exact ⟨fun hv => Bool.noConfusion (hv.symm.trans hvalid), fun _ => rfl⟩

/-- Settles O28: each TX window reads its slot with `answerSlot`. -/
theorem txWindowsAnswerTheirSlots : Obligations.TxWindowsAnswerTheirSlots := by
  unfold Obligations.TxWindowsAnswerTheirSlots
  intro s j i depth valid
  have hexec : exec i s = .next (answerSlot depth s.txf j s) := by fin_cases j <;> rfl
  exact exec_window hexec

/-- Settles O29: each RX window reads its slot with `answerSlot`, which does not pop. -/
theorem rxWindowsAnswerTheirSlots : Obligations.RxWindowsAnswerTheirSlots := by
  unfold Obligations.RxWindowsAnswerTheirSlots
  intro s j i depth valid
  have hexec : exec i s = .next (answerSlot depth s.rxf j s) := by fin_cases j <;> rfl
  exact exec_window hexec

/-! The writes of read-only registers. -/

/-- Settles O30: each of the nine writes is `faultReadOnly` at its register's offset. -/
theorem writesOfReadOnlyRegistersFault : Obligations.WritesOfReadOnlyRegistersFault := by
  unfold Obligations.WritesOfReadOnlyRegistersFault
  exact fun v s => ⟨rfl, rfl, rfl, rfl, rfl, rfl, rfl, rfl, rfl⟩

end Sys2Proof.Machine

/-! SUPPORT. The proofs of the statements about the transfer sequencer (45_transfer_sequencer.md). What a step makes of the frame
in flight, of the trace and of bring-up is said once, by `step_wire`; FrameStart and FrameEnd have one lemma per outcome. -/

namespace Sys2Proof.Machine

/-! What a step makes of the wire and of bring-up. -/

/-- What a move other than a chip reset makes of bring-up: MCR stays, and with it the memory of bring-up, or MCR is written, and
bring-up is remembered where MCR now stands as it leaves it (log entry 13). -/
def RemembersBringUp (s t : State) : Prop :=
  (t.mcr = s.mcr ∧ t.broughtUp = s.broughtUp) ∨ t.broughtUp = (s.broughtUp || masterUp t.mcr)

/-- What a move of any agent but the sequencer, other than a chip reset, makes of the state: the frame in flight and the trace
stay, and bring-up is remembered. -/
def OffWire (s t : State) : Prop := t.seq = s.seq ∧ t.trace = s.trace ∧ RemembersBringUp s t

theorem offWire_refl (s : State) : OffWire s s := ⟨rfl, rfl, .inl ⟨rfl, rfl⟩⟩

theorem offWire_checkSlave (s : State) : OffWire s (checkSlave s) := by
  rw [checkSlave_eq]; exact offWire_refl s

/-- An instruction is off the wire, and WR_MCR alone writes MCR (41_module_control.md R101). -/
theorem offWire_exec {i : Instr} {s t : State} (h : exec i s = .next t) : OffWire s t := by
  cases exec_effect h with
  | wroteMcr v =>
    obtain ⟨hframe, hmcr, hup, _⟩ := writeMcr_spec v s _ rfl
    exact ⟨by rw [hframe], by rw [hframe], .inr (by rw [hup, hmcr])⟩
  | clearedFlags v => exact offWire_checkSlave (clearFlags v s)
  | _ => exact offWire_refl s

theorem offWire_busAccess {a : BusAccess} {s t : State} (h : busAccess a s = .next t) : OffWire s t := by
  rcases busAccess_cases a s with ⟨f, h'⟩ | ⟨_, i, _, h'⟩
  · cases h'.symm.trans h; exact offWire_refl s
  · exact offWire_exec (h'.symm.trans h)

/-- Delivering an answer touches only the host. -/
theorem deliver_eq (dst : Option HostReg) (s : State) : deliver dst s = { s with host := (deliver dst s).host } := by
  unfold deliver
  split
  · rfl
  · split <;> rfl

theorem offWire_deliverTo {a : BusAccess} {dst : Option HostReg} {s t : State} (h : deliverTo dst (busAccess a s) = .next t) :
    OffWire s t := by
  obtain ⟨u, hu⟩ := busAccess_next a s
  rw [hu] at h
  cases h
  rw [deliver_eq]
  exact (offWire_busAccess hu :)

/-- The host's operations are off the wire: each is an access, a move of the host alone, a mark, or SetClockGate. -/
theorem offWire_hostOp {op : HostOp} {rest : List HostOp} {s t : State} (h : hostOp op rest s = .next t) : OffWire s t := by
  cases op with
  | access a dst => exact offWire_deliverTo h
  | writeReg off src => exact offWire_busAccess h
  | poll | drain =>
    simp only [hostOp] at h
    split at h
    · cases h; exact offWire_refl s
    · exact (offWire_deliverTo h :)
  | pollTest | drainTest | overrunTest => cases h; split <;> exact offWire_refl s
  | clockGate on => cases h; exact offWire_checkSlave { s with clkEn := on }
  | merge | fetch | pinMux | refuseDivider | ret | retByte => cases h; exact offWire_refl s

theorem offWire_hostMove {s t : State} (h : hostMove s = .next t) : OffWire s t := by
  unfold hostMove at h
  split at h
  · cases h; exact offWire_refl s
  · exact (offWire_hostOp h :)

/-- The move of each agent: the sequencer's, a chip reset, or one that is off the wire. -/
theorem takeTurn_wire {a : Turn} {s t : State} (h : takeTurn a s = .next t) :
    (a = .sequencer ∧ t = sequencerMove s) ∨ (a = .chipReset ∧ t = chipReset s) ∨ (a ≠ .chipReset ∧ OffWire s t) := by
  cases a with
  | host => exact .inr (.inr ⟨nofun, offWire_hostMove h⟩)
  | sequencer => cases h; exact .inl ⟨rfl, rfl⟩
  | setClockGate b => cases h; exact .inr (.inr ⟨nofun, offWire_checkSlave { s with clkEn := b }⟩)
  | setDebugHalt b => cases h; exact .inr (.inr ⟨nofun, offWire_checkSlave { s with debugHalt := b }⟩)
  | setDoze b => cases h; exact .inr (.inr ⟨nofun, offWire_checkSlave { s with dozeReq := b }⟩)
  | chipReset => cases h; exact .inr (.inl ⟨rfl, rfl⟩)

/-- A step is a move of the sequencer, a chip reset on its turn, or off the wire. -/
theorem step_wire {s t : State} (h : step s = .next t) :
    (∀ ts, s.turns ≠ .chipReset :: ts) ∧ ((∃ ts, t = sequencerMove { s with turns := ts }) ∨ OffWire s t) ∨
    (∃ ts, s.turns = .chipReset :: ts ∧ t = chipReset { s with turns := ts }) := by
  obtain ⟨_, hm⟩ := step_next h
  rcases move_cases s with ⟨a, ts, hts, h'⟩ | ⟨hnil, h'⟩ <;> rw [h'] at hm
  · rcases takeTurn_wire hm with ⟨rfl, ht⟩ | ⟨rfl, ht⟩ | ⟨ha, hoff⟩
    · exact .inl ⟨by simp [hts], .inl ⟨ts, ht⟩⟩
    · exact .inr ⟨ts, hts, ht⟩
    · exact .inl ⟨by simp [hts, ha], .inr hoff⟩
  · have hlisted : ∀ ts, s.turns ≠ .chipReset :: ts := by simp [hnil]
    rcases takeTurn_wire hm with ⟨_, ht⟩ | ⟨ha, _⟩ | ⟨_, hoff⟩
    · exact .inl ⟨hlisted, .inl ⟨[], by rw [ht, ← hnil]⟩⟩
    · unfold defaultTurn at ha; split at ha <;> cases ha
    · exact .inl ⟨hlisted, .inr hoff⟩

/-! Frames alternate on the wire. -/

/-- FrameOut and FrameIn alternate on the wire, and a frame is in flight exactly after a FrameOut (R195). -/
abbrev Paired (s : State) : Prop := traceBusy s.trace = some s.seq.busy

/-- A move of the sequencer keeps the pairing: FrameEnd is enabled only while busy, and FrameStart only while idle (R182,
R184). -/
theorem paired_sequencerMove {s : State} (h : Paired s) : Paired (sequencerMove s) := by
  rcases sequencerMove_cases s with ⟨he, hs⟩ | ⟨_, he, hs⟩ | ⟨_, _, hs⟩ <;> rw [hs]
  · have hbusy : s.seq.busy = true := ((frameEndEnabled_iff s).1 he).1
    exact (traceBusy_append _ h).trans (by rw [hbusy]; rfl)
  · obtain ⟨_, _, hidle, _⟩ := (frameStartEnabled_iff s).1 he
    rcases frameStart_cases s with ⟨r, hr⟩ | ⟨w, _, _, hl⟩
    · rw [hr]; exact h
    · rw [hl]; exact (traceBusy_append _ h).trans (by rw [hidle]; rfl)
  · exact h

/-- Every step keeps the pairing: off the wire nothing of it changes, and a chip reset empties the trace. -/
theorem paired_step {s t : State} (h : Paired s) (hstep : step s = .next t) : Paired t := by
  rcases step_wire hstep with ⟨_, ⟨ts, rfl⟩ | ⟨hseq, htrace, _⟩⟩ | ⟨ts, _, rfl⟩
  · exact paired_sequencerMove h
  · rw [Paired, hseq, htrace]; exact h
  · rfl

/-- Settles O47, by induction on the length of the run. -/
theorem framesAlternateAlongEveryRun : Obligations.FramesAlternateAlongEveryRun := by
  unfold Obligations.FramesAlternateAlongEveryRun
  intro k
  induction k with
  | zero => intro s t h hrun; cases hrun; exact h
  | succ k ih =>
    intro s t h hrun
    obtain ⟨u, hstep, hrest⟩ := of_run_succ hrun
    exact ih u t (paired_step h hstep) hrest

/-! The run condition and the transfer states. -/

/-- Settles O20: each factor of `running` is one of the conditions. -/
theorem runConditionOfTheModule : Obligations.RunConditionOfTheModule := by
  unfold Obligations.RunConditionOfTheModule
  intro s
  simp only [running, Bool.and_eq_true, Bool.not_eq_true', Bool.and_eq_false_iff, not_and_or, Bool.not_eq_true, and_assoc]

/-- Where a master that runs stands (R194). -/
theorem transferState_running {s : State} (hm : s.mcr.mstr = true) (hr : running s = true) :
    transferState s = if s.txf.cnt = 0 ∧ s.seq.busy = false then .ready else .transferring := by
  simp [transferState, hm, hr]

/-- Where a master that does not run stands (R194, log entry 13). -/
theorem transferState_notRunning {s : State} (hm : s.mcr.mstr = true) (hr : running s = false) :
    transferState s = if s.broughtUp then .stopped else .uninitialized := by
  simp [transferState, hm, hr]

/-- A module that is no master is uninitialized (R194, log entry 13). -/
theorem transferState_slave {s : State} (hm : s.mcr.mstr = false) : transferState s = .uninitialized := by
  simp [transferState, hm]

/-- A sequencer with work is busy or has an entry to take (R194). -/
theorem not_idle_iff (s : State) : ¬(s.txf.cnt = 0 ∧ s.seq.busy = false) ↔ 0 < s.txf.cnt ∨ s.seq.busy = true := by
  simp only [not_and_or, Nat.pos_iff_ne_zero, Bool.not_eq_false, ne_eq]

/-- MCR stands as bring-up leaves it (46_driver_sequences.md R211). -/
theorem masterUp_iff (m : Mcr) : masterUp m = true ↔ m.mstr = true ∧ m.mdis = false ∧ m.halt = false := by
  simp [masterUp, and_assoc]

/-- A move of the sequencer writes no MCR. -/
theorem remembersBringUp_sequencerMove (s : State) : RemembersBringUp s (sequencerMove s) := by
  rw [(sequencerMove_frame s).1]; exact .inl ⟨rfl, rfl⟩

/-- Under the invariant bring-up is remembered where MCR stays too: there it was remembered already if MCR stands so. -/
theorem broughtUp_eq {s t : State} (hi : Inv s) (h : RemembersBringUp s t) :
    t.broughtUp = (s.broughtUp || masterUp t.mcr) := by
  obtain ⟨hmcr, hup⟩ | hup := h
  · rw [hmcr, hup]
    cases hm : masterUp s.mcr
    · simp
    · simp [hi.up hm]
  · exact hup

/-- Settles O60: the names by `transferState`'s cases, and of a step `step_wire` says which writes MCR. -/
theorem transferStatesFollowBringUp : Obligations.TransferStatesFollowBringUp := by
  unfold Obligations.TransferStatesFollowBringUp
  refine ⟨fun s => ?_, fun s t hi hstep => ?_⟩
  · cases hm : s.mcr.mstr
    · simp [transferState_slave hm]
    · cases hr : running s
      · rw [transferState_notRunning hm hr]
        cases s.broughtUp <;> simp
      · rw [transferState_running hm hr]
        by_cases hidle : s.txf.cnt = 0 ∧ s.seq.busy = false
        · simp [hidle]
        · rw [if_neg hidle]
          have hwork := (not_idle_iff s).1 hidle
          exact ⟨by simp, iff_of_false nofun fun ⟨_, _, h⟩ => hidle h, iff_of_true rfl ⟨rfl, rfl, hwork⟩, by simp⟩
  · rcases step_wire hstep with ⟨hother, h⟩ | ⟨ts, hts, rfl⟩
    · refine ⟨fun _ => ?_, fun ts hts => absurd hts (hother ts)⟩
      have hup : RemembersBringUp s t := by
        rcases h with ⟨ts, rfl⟩ | ⟨_, _, hup⟩
        · exact (remembersBringUp_sequencerMove _ :)
        · exact hup
      rw [← masterUp_iff, broughtUp_eq hi hup, Bool.or_eq_true]
    · exact ⟨fun hn => absurd hts (hn ts), fun _ _ => rfl⟩

/-! The sequencer's turn. -/

section
variable {s : State}

/-- An enabled FrameEnd is the sequencer's move, with the next draw as the slave's answer (R185). -/
theorem sequencerMove_frameEnd (h : frameEndEnabled s = true) :
    sequencerMove s = frameEnd (Config.freeWord s.draws) { s with draws := s.draws + 1 } := if_pos h

/-- An enabled FrameStart is the sequencer's move: FrameEnd is not enabled while idle (R182, R184). -/
theorem sequencerMove_frameStart (h : frameStartEnabled s = true) : sequencerMove s = frameStart s := by
  obtain ⟨_, _, hidle, _⟩ := (frameStartEnabled_iff s).1 h
  simp [sequencerMove, h, frameEndEnabled, hidle]

end

/-- On the sequencer's turn a frame in flight ends (R184). -/
theorem step_frameEnd {s : State} {ts : List Turn} (hc : Clean s) (ht : s.turns = .sequencer :: ts) (hbusy : s.seq.busy = true)
    (hk : s.clkEn = true) :
    step s = .next (frameEnd (Config.freeWord s.draws) { s with turns := ts, draws := s.draws + 1 }) := by
  have hen : frameEndEnabled { s with turns := ts } = true := (frameEndEnabled_iff _).2 ⟨hbusy, hk, hc⟩
  rw [step_sequencer hc ht, sequencerMove_frameEnd hen]

/-- Settles O39: the other two moves of `sequencerMove_cases` are of an enabled step. -/
theorem sequencerWaitsUntilAStepIsEnabled : Obligations.SequencerWaitsUntilAStepIsEnabled := by
  unfold Obligations.SequencerWaitsUntilAStepIsEnabled
  intro s ts hc ht hend hstart
  rcases sequencerMove_cases { s with turns := ts } with ⟨he, _⟩ | ⟨_, he, _⟩ | ⟨_, _, hs⟩
  · obtain ⟨hbusy, hk, _⟩ := (frameEndEnabled_iff _).1 he
    exact absurd ⟨hbusy, hk⟩ hend
  · obtain ⟨hr, hm, hidle, hcnt, _⟩ := (frameStartEnabled_iff _).1 he
    exact absurd ⟨hr, hm, hidle, hcnt⟩ hstart
  · rw [step_sequencer hc ht, hs]

/-- Settles O50: the default turn is the sequencer's exactly where a step of it is enabled. -/
theorem unlistedTurnGoesToAnEnabledSequencer : Obligations.UnlistedTurnGoesToAnEnabledSequencer := by
  unfold Obligations.UnlistedTurnGoesToAnEnabledSequencer
  intro s hc ht
  have hstep : step s = takeTurn (defaultTurn s) s := by rw [step_clean hc, move, ht]
  have hhost : frameEndEnabled s = false → frameStartEnabled s = false → step s = hostMove s := fun he hs => by
    rw [hstep]; simp [defaultTurn, he, hs, takeTurn]
  refine ⟨fun h => ?_, hhost, fun he hs htodo => ?_⟩
  · rw [hstep]; simp [defaultTurn, h, takeTurn]
  · rw [hhost he hs, hostMove, htodo]

/-! FrameStart. -/

/-- The CTAR that CTAS names (R183). -/
theorem selectCtar_of_ctas {e w : Word} {s : State}
    (h : (entryCtas e = 0#3 ∧ w = s.ctar0) ∨ (entryCtas e = 1#3 ∧ w = s.ctar1)) : selectCtar e s = some w := by
  rcases h with ⟨hc, rfl⟩ | ⟨hc, rfl⟩ <;> rw [selectCtar, hc] <;> rfl

/-- The reserved frame sizes are those below 4 bits (42_clock_transfer_attributes.md R127). -/
theorem frameSizeReserved_iff (w : Word) : frameSizeReserved w = true ↔ frameSize w < 4 := by
  simp [frameSizeReserved, frameSize]; omega

/-- FrameStart of an entry that selects a register of a reserved frame size (R183). -/
theorem frameStart_reserved {s : State} {w : Word} (hw : selectCtar s.txf.front s = some w) (hn : frameSize w < 4) :
    frameStart s = refuse .frameSizeReserved s := by
  rw [frameStart, hw]; exact if_pos ((frameSizeReserved_iff w).2 hn)

/-- FrameStart of an entry that selects a register of a frame size that is not reserved (R183). -/
theorem frameStart_launched {s : State} {w : Word} (hw : selectCtar s.txf.front s = some w) (hn : 4 ≤ frameSize w) :
    frameStart s = launchFrame s.txf.front w s := by
  rw [frameStart, hw]; exact if_neg fun hr => Nat.not_lt.2 hn ((frameSizeReserved_iff w).1 hr)

/-- Settles O37: `frameStart_reserved` and `frameStart_launched`, and the new pointer by `slotIndex_val`. -/
theorem frameStartTakesTheOldestEntry : Obligations.FrameStartTakesTheOldestEntry := by
  unfold Obligations.FrameStartTakesTheOldestEntry
  intro s ts e w hc ht hr hm hidle hcnt he hw depth n
  subst he
  have hen : frameStartEnabled { s with turns := ts } = true := (frameStartEnabled_iff _).2 ⟨hr, hm, hidle, hcnt, hc⟩
  have hsel : selectCtar s.txf.front { s with turns := ts } = some w := selectCtar_of_ctas hw
  have hstep : step s = .next (frameStart { s with turns := ts }) := by
    rw [step_sequencer hc ht, sequencerMove_frameStart hen]
  refine ⟨fun hn => hstep.trans (congrArg _ (frameStart_reserved hsel hn)), fun hn => ?_⟩
  exact ⟨_, hstep.trans (congrArg _ (frameStart_launched hsel hn)), rfl, rfl, slotIndex_val (dtx_cases s.mcr) _, rfl, rfl, rfl,
    rfl, rfl⟩

/-! FrameEnd. -/

section
variable (d : Word) {s : State}

/-- FrameEnd with room in the RX FIFO puts the received word and leaves RFOF (R185). -/
theorem frameEnd_room (h : s.rxf.cnt < drx s.mcr) :
    (frameEnd d s).rxf = s.rxf.put (drx s.mcr) (lowBits s.seq.n d) ∧ (frameEnd d s).rfof = s.rfof := by
  simp [frameEnd, h]

/-- FrameEnd without room sets RFOF (R186). -/
theorem frameEnd_full (h : drx s.mcr ≤ s.rxf.cnt) :
    (frameEnd d s).rxf = overflowRxf (lowBits s.seq.n d) s ∧ (frameEnd d s).rfof = true := by
  simp [frameEnd, Nat.not_lt.2 h]

end

/-- Replacing the newest entry writes its slot and no other (R186). -/
theorem getElem_slot_replaceNewest {depth : Nat} (hd : depth = 1 ∨ depth = 4) (f : Fifo) (w : Word) (j : Fin 4) :
    (f.replaceNewest depth w).slot[j] = if j.val = (f.ptr.val + f.cnt - 1) % depth then w else f.slot[j] := by
  rw [← slotIndex_val hd]
  by_cases hj : j.val = (slotIndex depth (f.ptr.val + f.cnt - 1)).val
  · simp [Fifo.replaceNewest, hj]
  · simpa [Fifo.replaceNewest, hj] using Vector.getElem_set_ne _ _ (Ne.symm hj)

/-- An overflow changes no pointer and no count, and only the newest slot where ROOE and ROOE_POLICY have it replaced (R186). -/
theorem overflowRxf_spec (r : Word) (s : State) :
    (overflowRxf r s).ptr = s.rxf.ptr ∧ (overflowRxf r s).cnt = s.rxf.cnt ∧ ∀ j : Fin 4, (overflowRxf r s).slot[j] =
      if s.mcr.rooe = true ∧ Config.rooePolicy = .replaceNewest ∧ j.val = (s.rxf.ptr.val + s.rxf.cnt - 1) % drx s.mcr then r
      else s.rxf.slot[j] := by
  rcases overflowRxf_cases r s with ⟨hno, h⟩ | ⟨hrooe, hpol, h⟩ <;> rw [h]
  · exact ⟨rfl, rfl, fun j => (if_neg fun ⟨h1, h2, _⟩ => hno ⟨h1, h2⟩).symm⟩
  · refine ⟨rfl, rfl, fun j => ?_⟩
    rw [getElem_slot_replaceNewest (drx_cases s.mcr)]
    simp [hrooe, hpol]

/-- FrameEnd moves no pointer (R185, R186). -/
theorem frameEnd_rxf_ptr (d : Word) (s : State) : (frameEnd d s).rxf.ptr = s.rxf.ptr := by
  rcases Nat.lt_or_ge s.rxf.cnt (drx s.mcr) with h | h
  · rw [(frameEnd_room d h).1]; rfl
  · rw [(frameEnd_full d h).1, (overflowRxf_spec _ s).1]

/-- FrameEnd of an entry with EOQ = 1 sets EOQF (R187). -/
theorem frameEnd_eoqf (d : Word) (s : State) :
    (frameEnd d s).eoqf = if s.seq.entry.getLsbD 27 = true then true else s.eoqf := by
  change (s.eoqf || s.seq.entry.getLsbD 27) = _
  cases s.seq.entry.getLsbD 27 <;> simp

/-- Settles O38: `frameEnd_room` and `frameEnd_full` say what becomes of the RX FIFO. -/
theorem frameEndDeliversTheReceivedWord : Obligations.FrameEndDeliversTheReceivedWord := by
  unfold Obligations.FrameEndDeliversTheReceivedWord
  intro s ts hc ht hbusy hk depth e r
  refine ⟨_, step_frameEnd hc ht hbusy hk, rfl, frameEnd_eoqf _ _, rfl, frameEnd_rxf_ptr _ _, fun hroom => ?_,
    fun hfull => ?_⟩
  · obtain ⟨hrxf, hrfof⟩ := frameEnd_room (Config.freeWord s.draws)
      (s := { s with turns := ts, draws := s.draws + 1 }) hroom
    rw [hrxf, hrfof]
    exact ⟨rfl, rfl, getElem_slot_put (drx_cases s.mcr) s.rxf r⟩
  · obtain ⟨hrxf, hrfof⟩ := frameEnd_full (Config.freeWord s.draws)
      (s := { s with turns := ts, draws := s.draws + 1 }) hfull
    rw [hrxf, hrfof]
    exact ⟨rfl, (overflowRxf_spec _ _).2⟩

/-- Settles O40: no access touches the frame in flight or the clock gate (`exec_frame`), so the next turn ends that frame. -/
theorem frameInFlightFinishesAfterAnyAccess : Obligations.FrameInFlightFinishesAfterAnyAccess := by
  unfold Obligations.FrameInFlightFinishesAfterAnyAccess
  intro i s t ts hexec hc ht hbusy hk
  obtain ⟨hframe, _⟩ := exec_frame i s t hexec
  have hseq : t.seq = s.seq := by rw [hframe]
  have htrace : t.trace = s.trace := by rw [hframe]
  have hclk : t.clkEn = s.clkEn := by rw [hframe]
  refine ⟨_, step_frameEnd hc ht (hseq ▸ hbusy) (hclk ▸ hk), rfl, rfl, rfl, ?_⟩
  rw [← hseq, ← htrace]
  rfl

/-! The wire and the chip selects. -/

/-- Settles O43: least significant first, position k is bit k; most significant first is the reverse of that list. -/
theorem wireOrderFollowsLsbfe : Obligations.WireOrderFollowsLsbfe := by
  unfold Obligations.WireOrderFollowsLsbfe
  intro n v k hk
  have hlength : (wireOrder true n v).length = n := by simp [wireOrder]
  have hbit : ∀ j < n, (wireOrder true n v)[j]? = some (v.getLsbD j) := fun j hj => by simp [wireOrder, bit, hj]
  have hreverse : wireOrder false n v = (wireOrder true n v).reverse := rfl
  refine ⟨?_, hbit k hk, by rw [hreverse, List.length_reverse, hlength], hlength⟩
  rw [hreverse, List.getElem?_reverse (by rw [hlength]; exact hk), hlength]
  exact hbit _ (by omega)

/-- During a frame a line is off its idle level exactly where the entry asserts it (R188, 10_state.md R37). -/
theorem pcsLine_launchFrame (e w : Word) (s : State) : pcsLine (launchFrame e w s) = s.mcr.pcsis ^^^ entryPcs e := rfl

/-- After a frame the lines are as they were, or back at their idle levels (R188, 10_state.md R37). -/
theorem pcsLine_frameEnd (d : Word) (s : State) :
    pcsLine (frameEnd d s) = if entryCont s.seq.entry then pcsLine s else s.mcr.pcsis := by
  cases h : entryCont s.seq.entry <;> simp [pcsLine, frameEnd, h]

/-- Settles O44: the lines at launch are the idle levels with the entry's lines inverted, and `pcsLine_frameEnd`. -/
theorem chipSelectsReturnToIdle : Obligations.ChipSelectsReturnToIdle := by
  unfold Obligations.ChipSelectsReturnToIdle
  refine ⟨fun e w s k hk => ?_, fun d s => ⟨fun h => ?_, fun h => ?_⟩⟩
  · have hasserted : (entryPcs e).getLsbD k = e.getLsbD (16 + k) := by simp [entryPcs, field, hk]
    rw [pcsLine_launchFrame, BitVec.getLsbD_xor, hasserted]
    cases e.getLsbD (16 + k) <;> simp
  · exact (pcsLine_frameEnd d s).trans (if_neg (Bool.eq_false_iff.1 h))
  · exact (pcsLine_frameEnd d s).trans (if_pos h)

end Sys2Proof.Machine

/-! SUPPORT. The proofs of the statements about the driver sequences (46_driver_sequences.md). A read-modify-write is run once, by
`run_rmw`, for any register; `start()` is then its clock gate, its four read-modify-writes, its pin mux and its return in turn. -/

namespace Sys2Proof.Machine

/-! The words that the driver programs into CTAR0. -/

/-- Settles O51: the mask is the two bits' places, and a placed bit is 0 at every other place. -/
theorem setModeWritesItsTwoBits : Obligations.SetModeWritesItsTwoBits := by
  unfold Obligations.SetModeWritesItsTwoBits
  intro pol pha
  refine ⟨placeBit true 26 ||| placeBit true 25, placeBit pol 26 ||| placeBit pha 25, rfl, ?_⟩
  intro c w
  refine ⟨by simp [w], by simp [w], fun k h26 h25 => ?_⟩
  by_cases hk : k < 32
  · simp [w, hk, h26, h25]
  · simp [w, hk, BitVec.getLsbD_of_ge c k (Nat.le_of_not_lt hk)]

/-- The prescaler table lists the values of the codes (42_clock_transfer_attributes.md R125). -/
theorem mem_prescalers_iff (p : Nat) : p ∈ [2, 3, 5, 7] ↔ ∃ pbr, prescalerValue pbr = p := by
  constructor
  · revert p; decide
  · rintro ⟨pbr, rfl⟩; revert pbr; decide

/-- The scaler table lists the values of the codes (42_clock_transfer_attributes.md R126). -/
theorem mem_scalers_iff (v : Nat) :
    v ∈ [2, 4, 6, 8, 16, 32, 64, 128, 256, 512, 1024, 2048, 4096, 8192, 16384, 32768] ↔ ∃ br, scalerValue br = v := by
  constructor
  · revert v; decide
  · rintro ⟨br, rfl⟩; revert br; decide

theorem pbrOf_prescalerValue : ∀ pbr, pbrOf (prescalerValue pbr) = some pbr := by decide

theorem brOf_scalerValue : ∀ br, brOf (scalerValue br) = some br := by decide

theorem prescalerValue_of_pbrOf {p : Nat} {pbr : BitVec 2} (h : pbrOf p = some pbr) : prescalerValue pbr = p := by
  unfold pbrOf at h
  split_ifs at h <;> cases h <;> subst p <;> rfl

theorem scalerValue_of_brOf {v : Nat} {br : BitVec 4} (h : brOf v = some br) : scalerValue br = v := by
  simpa using List.find?_some h

/-- CTAR0 as `set_divider` leaves it: the two codes in their fields, DBR clear, every other bit as before (R203). -/
theorem dividerWord_spec (c : Word) (pbr : BitVec 2) (br : BitVec 4) :
    let w := (c &&& ~~~0x8003000F#32) ||| (place pbr 16 ||| place br 0)
    ctarPbr w = pbr ∧ ctarBr w = br ∧ ctarDbr w = false ∧ w &&& 0x7FFCFFF0#32 = c &&& 0x7FFCFFF0#32 := by
  intro w
  have hcleared : ∀ lo len : Nat, field (~~~0x8003000F#32) lo len = 0#len → field (c &&& ~~~0x8003000F#32) lo len = 0#len :=
    fun lo len h => by rw [field, BitVec.extractLsb'_and]; exact (congrArg _ h).trans BitVec.and_zero
  refine ⟨?_, ?_, by simp [w, ctarDbr, bit], ?_⟩
  · simp (disch := decide) only [w, ctarPbr, field_or, hcleared 16 2 rfl, field_place_same, field_place_disjoint, BitVec.or_zero,
      BitVec.zero_or]
  · simp (disch := decide) only [w, ctarBr, field_or, hcleared 0 4 rfl, field_place_same, field_place_disjoint, BitVec.zero_or]
  · simp (disch := decide) only [w, BitVec.and_or_distrib_right, place_and_eq_zero, BitVec.or_zero, BitVec.and_assoc]
    rfl

/-- Without DBR the ratio is the product of the two values (42_clock_transfer_attributes.md R130). -/
theorem divRatio_of_dbr_clear {w : Word} (h : ctarDbr w = false) :
    divRatio w = prescalerValue (ctarPbr w) * scalerValue (ctarBr w) := by
  simp [divRatio, h]

/-- Settles O52: the tables' codes are inverse to their values, and `dividerWord_spec` says what the write leaves. -/
theorem setDividerProgramsTheProduct : Obligations.SetDividerProgramsTheProduct := by
  unfold Obligations.SetDividerProgramsTheProduct
  refine ⟨fun s ops ts hc ht ho => step_host hc ht ho, ?_⟩
  intro p v inTables
  have htables : inTables ↔ (∃ pbr, prescalerValue pbr = p) ∧ ∃ br, scalerValue br = v :=
    and_congr (mem_prescalers_iff p) (mem_scalers_iff v)
  refine ⟨fun hin => ?_, fun hout => ?_⟩
  · obtain ⟨⟨pbr, rfl⟩, br, rfl⟩ := htables.1 hin
    refine ⟨0x8003000F#32, place pbr 16 ||| place br 0, ?_, ?_⟩
    · rw [driverSetDivider, pbrOf_prescalerValue, brOf_scalerValue]; rfl
    · intro c w
      obtain ⟨hpbr, hbr, hdbr, hmask⟩ := dividerWord_spec c pbr br
      exact ⟨congrArg prescalerValue hpbr, congrArg scalerValue hbr, by rw [divRatio_of_dbr_clear hdbr, hpbr, hbr], hdbr, hmask⟩
  · unfold driverSetDivider
    split
    · next pbr br hp hv =>
      exact absurd (htables.2 ⟨⟨pbr, prescalerValue_of_pbrOf hp⟩, br, scalerValue_of_brOf hv⟩) hout
    · rfl

/-! The waits of `write` and `read`. -/

/-- A count within a depth fits its four bits of SR (10_state.md R27). -/
theorem toNat_nibble {depth k : Nat} (hd : depth = 1 ∨ depth = 4) (h : k ≤ depth) : (nibble k).toNat = k := by
  rw [nibble, BitVec.toNat_ofNat]; omega

/-- The wait of `write` ends on the packed SR exactly where at most 3 entries are queued (R206). -/
theorem txRoom_holds_packSr {s : State} (h : FifoOk (dtx s.mcr) s.txf) : txRoom.holds (packSr s) = true ↔ s.txf.cnt ≤ 3 := by
  obtain ⟨htxctr, _⟩ := packSr_counters s
  have hfield : (field (packSr s) 12 4).toNat = s.txf.cnt := by rw [htxctr, toNat_nibble (dtx_cases _) h.1]
  rw [← hfield]
  exact PollCond.holds_atMost 3 _

/-- The wait of `read` ends on the packed SR exactly where a received word is (R207). -/
theorem rxReady_holds_packSr {s : State} (h : FifoOk (drx s.mcr) s.rxf) : rxReady.holds (packSr s) = true ↔ 0 < s.rxf.cnt := by
  obtain ⟨_, _, hrxctr, _⟩ := packSr_counters s
  have hfield : (field (packSr s) 4 4).toNat = s.rxf.cnt := by rw [hrxctr, toNat_nibble (drx_cases _) h.1]
  rw [← hfield]
  exact PollCond.holds_greater 0 _

/-- Settles O55: the answer is the packed SR. -/
theorem pollsSeeTheFifoCounts : Obligations.PollsSeeTheFifoCounts := by
  unfold Obligations.PollsSeeTheFifoCounts
  exact fun s htx hrx => ⟨_, rfl, txRoom_holds_packSr htx, rxReady_holds_packSr hrx⟩

/-! The push of `write`. -/

/-- The word that `write` pushes selects CTAR0 (R206). -/
theorem entryCtas_pushWord (b : BitVec 8) : entryCtas (pushWord b) = 0#3 := by
  rw [entryCtas, pushWord, field_or, show b.setWidth 32 = place b 0 by simp [place], field_place_disjoint b (by decide)]
  rfl

/-- The push of `write` with at most 3 entries queued, on a module that is up and has its TX FIFO enabled (R213). -/
theorem push_clean {s : State} (b : BitVec 8) (hc : Clean s) (hm : s.mcr.mstr = true) (hd : s.mcr.mdis = false)
    (htxf : s.mcr.disTxf = false) (hcnt : s.txf.cnt ≤ 3) : ∃ t, exec (.wrPushr (pushWord b)) s = .next t ∧ Clean t := by
  have hctas : (entryCtas (pushWord b)).toNat < 2 := by rw [entryCtas_pushWord]; decide
  have hdepth : dtx s.mcr = 4 := by simp [dtx, htxf, Config.txDepth]
  exact ⟨_, execWrPushr_admitted hm hd hctas (by omega), hc⟩

/-- The sequencer only takes from the TX FIFO (45_transfer_sequencer.md R183, R185). -/
theorem txf_cnt_sequencerMove_le (s : State) : (sequencerMove s).txf.cnt ≤ s.txf.cnt := by
  rcases sequencerMove_cases s with ⟨_, h⟩ | ⟨_, _, h⟩ | ⟨_, _, h⟩ <;> rw [h]
  · exact le_rfl
  · rcases frameStart_cases s with ⟨r, hs⟩ | ⟨w, _, _, hs⟩ <;> rw [hs]
    · exact le_rfl
    · exact Nat.sub_le _ _

/-- A move of the sequencer writes no MCR (45_transfer_sequencer.md R183, R185). -/
theorem mcr_sequencerMove (s : State) : (sequencerMove s).mcr = s.mcr := by rw [(sequencerMove_frame s).1]

/-- Settles O56: the wait ends with at most 3 entries queued, and a move of the sequencer adds none. -/
theorem pushAfterTheWaitIsAdmitted : Obligations.PushAfterTheWaitIsAdmitted := by
  unfold Obligations.PushAfterTheWaitIsAdmitted
  intro s b hi hc hm hd htxf hwait
  have hcnt : s.txf.cnt ≤ 3 := (txRoom_holds_packSr hi.tx).1 hwait
  refine ⟨push_clean b hc hm hd htxf hcnt, fun hclean => ?_⟩
  rw [← mcr_sequencerMove s] at hm hd htxf
  exact push_clean b hclean hm hd htxf ((txf_cnt_sequencerMove_le s).trans hcnt)

/-! The drain and the fault check of `send`. -/

/-- Settles O57: the host's turn makes its next operation, and `deliverTo_busAccess` is the read. -/
theorem sendDrainsAndReportsOverrun : Obligations.SendDrainsAndReportsOverrun := by
  unfold Obligations.SendDrainsAndReportsOverrun
  intro s budget ops ts hc ht
  refine ⟨fun left hleft ho => ?_, fun ho hmore => ?_, fun ho hnone => ?_, fun ho hset => ?_, fun ho hclear => ?_⟩ <;>
    rw [step_host hc ht ho, hostOp]
  · obtain ⟨hbudget, rfl⟩ := spend_of_left hleft
    rw [if_neg hbudget]
    exact deliverTo_busAccess .t _ _
  · exact congrArg _ (if_pos hmore)
  · exact congrArg _ (if_neg (Nat.not_lt.2 hnone.le))
  · exact congrArg _ (if_pos hset)
  · exact congrArg _ (if_neg (Bool.eq_false_iff.1 hclear))

/-! The words that `start()` writes to MCR. -/

/-- The word that a read-modify-write of MCR writes (30_encoding.md R92). -/
def mergedMcr (m : Mcr) (clear set : Word) : Word := (packMcr m &&& ~~~clear) ||| set

section
variable (m : Mcr)

/-- Step 2 of `start()` sets MSTR (R201). -/
theorem unpackMcr_setMstr : unpackMcr (mergedMcr m 0#32 0x80000000#32) = { m with mstr := true } := by
  conv_rhs => rw [← unpackMcr_packMcr m]
  rw [mergedMcr, BitVec.not_zero, BitVec.and_allOnes]
  simp [unpackMcr, bit, field, mcrDconf, mcrMdis, mcrDisTxf, mcrDisRxf, BitVec.extractLsb'_or]

/-- Step 2 of `start()` flushes no FIFO (R201). -/
theorem mcrClr_setMstr :
    mcrClrTxf (mergedMcr m 0#32 0x80000000#32) = false ∧ mcrClrRxf (mergedMcr m 0#32 0x80000000#32) = false := by
  simp [mergedMcr, mcrClrTxf, mcrClrRxf, bit, packMcr]

/-- Step 3 of `start()` clears MDIS and HALT (R201). -/
theorem unpackMcr_enable : unpackMcr (mergedMcr m 0x00004001#32 0#32) = { m with mdis := false, halt := false } := by
  conv_rhs => rw [← unpackMcr_packMcr m]
  have hkept2 : ∀ f : BitVec 2, f &&& 3#2 = f := by decide
  have hkept6 : ∀ f : BitVec 6, f &&& 63#6 = f := by decide
  simp [mergedMcr, unpackMcr, bit, field, mcrDconf, mcrMdis, mcrDisTxf, mcrDisRxf, BitVec.extractLsb'_and, hkept2, hkept6]

/-- `clear()` sets MSTR and the idle levels of all chip selects, and flushes both FIFOs (R204). -/
theorem unpackMcr_clear : unpackMcr (mergedMcr m 0#32 0x803F0C00#32) = { m with mstr := true, pcsis := 0b111111#6 } := by
  have hhigh : ∀ f : BitVec 6, f ||| 63#6 = 63#6 := by decide
  conv_rhs => rw [← unpackMcr_packMcr m]
  rw [mergedMcr, BitVec.not_zero, BitVec.and_allOnes]
  simp [unpackMcr, bit, field, mcrDconf, mcrMdis, mcrDisTxf, mcrDisRxf, BitVec.extractLsb'_or, hhigh]

/-- `clear()` flushes both FIFOs (R204). -/
theorem mcrClr_clear :
    mcrClrTxf (mergedMcr m 0#32 0x803F0C00#32) = true ∧ mcrClrRxf (mergedMcr m 0#32 0x803F0C00#32) = true := by
  simp [mergedMcr, mcrClrTxf, mcrClrRxf, bit]

end

/-! Runs in which only the host moves. -/

/-- For any machine, a run goes on from where a shorter run ends. -/
theorem core_run_add (M : Host.Core) {s t : M.State} {j : Nat} (k : Nat) (h : M.run j s = .next t) :
    M.run (j + k) s = M.run k t := by
  induction j generalizing s with
  | zero => cases h; rw [Nat.zero_add]
  | succ j ih =>
    obtain ⟨u, hstep, hrest⟩ := of_core_run_succ M h
    rw [Nat.add_right_comm, core_run_succ M (j + k) hstep, ih hrest]

/-- A run goes on from where a shorter run ends. -/
theorem run_add {s t : State} {j : Nat} (k : Nat) (h : Sys2Proof.core.run j s = .next t) :
    Sys2Proof.core.run (j + k) s = Sys2Proof.core.run k t :=
  core_run_add Sys2Proof.core k h

/-- A run of one step is that step. -/
theorem run_one {s t : State} (h : step s = .next t) : Sys2Proof.core.run 1 s = .next t := run_succ 0 h

/-- The access of an instruction decodes to it (30_encoding.md R83). -/
theorem decodeAccess_access (i : Instr) : decodeAccess i.access = .row i := by
  obtain ⟨hfields, hsize, _⟩ := access_fields i
  have haccess : i.access = accessOfSelector i.opcode (i.operand.getD 0#32) := by rw [hfields, accessOfSelector, hsize]; rfl
  have hdata : (accessOfSelector i.opcode (i.operand.getD 0#32)).data = i.operand.getD 0#32 := rfl
  rw [haccess, decodeAccess, selector_accessOfSelector, hdata, decodeSelector_opcode]

/-- A state with the host and the turns to come replaced, and the block as it was. -/
def withAgents (a : HostAgent) (l : List Turn) (s : State) : State := { s with host := a, turns := l }

/-- The machine is clean, the next n turns are the host's, with the turns ts after them, and the host has ops to do. -/
structure HostAt (n : Nat) (ts : List Turn) (ops : List HostOp) (s : State) : Prop where
  clean : Clean s
  turns : s.turns = List.replicate n .host ++ ts
  todo : s.host.todo = ops

/-- The same with the clock on, and with what the moves of `start()` write or keep: MCR, CTAR0, and the frame in flight. -/
structure BlockAt (n : Nat) (ts : List Turn) (ops : List HostOp) (m : Mcr) (c : Word) (q : Sequencer) (s : State) : Prop where
  host : HostAt n ts ops s
  clkEn : s.clkEn = true
  mcr : s.mcr = m
  ctar0 : s.ctar0 = c
  seq : s.seq = q

section
variable {n : Nat} {ts : List Turn} {ops : List HostOp} {m : Mcr} {c : Word} {q : Sequencer} {s : State}

/-- The host's turn makes its next operation. -/
theorem HostAt.step_eq {op : HostOp} (h : HostAt (n + 1) ts (op :: ops) s) :
    step s = hostOp op ops (withAgents { s.host with todo := ops } (List.replicate n .host ++ ts) s) :=
  step_host h.clean h.turns h.todo

/-- The answer of a read that left no mark goes to the register named (20_memory.md R60). -/
theorem deliverTo_clean {u : State} (r : HostReg) (hc : Clean u) :
    deliverTo (some r) (.next u) = .next (setHostReg r u.rdata u) := by
  obtain ⟨hf, hr⟩ := hc
  simp [deliverTo, deliver, stopped, hf, hr]

/-- A read that only answers puts the answer in the host's t (30_encoding.md R91). -/
theorem HostAt.step_rd {off : Offset} {old : Word} {i : Instr} (h : HostAt (n + 1) ts (rd off .t :: ops) s) (hk : s.clkEn = true)
    (hi : decodeAccess (.rd off) = .row i) (hread : ∀ a l, exec i (withAgents a l s) = .next (answer old (withAgents a l s))) :
    ∃ a : HostAgent, a.todo = ops ∧ a.x.t = old ∧
      step s = .next (answer old (withAgents a (List.replicate n .host ++ ts) s)) := by
  have hbus : ∀ a l, busAccess (.rd off) (withAgents a l s) = .next (answer old (withAgents a l s)) := fun a l =>
    (busAccess_row (s := withAgents a l s) hk hi).trans (hread a l)
  refine ⟨{ s.host with todo := ops, x := s.host.x.set .t old }, rfl, rfl, ?_⟩
  calc step s
    _ = deliverTo (some .t) (busAccess (.rd off) (withAgents _ _ s)) := h.step_eq
    _ = deliverTo (some .t) (.next (answer old (withAgents _ _ s))) := congrArg _ (hbus _ _)
    _ = .next (setHostReg .t old (answer old (withAgents _ _ s))) := deliverTo_clean _ h.clean

/-- The merge touches the host's t alone (30_encoding.md R92). -/
theorem HostAt.step_merge {clear set : Word} (h : HostAt (n + 1) ts (.merge .t clear set :: ops) s) :
    ∃ a : HostAgent, a.todo = ops ∧ a.x.t = (s.host.x.t &&& ~~~clear) ||| set ∧
      step s = .next (withAgents a (List.replicate n .host ++ ts) s) :=
  ⟨_, rfl, rfl, h.step_eq⟩

/-- The write back is the access of the value of the host's t (30_encoding.md R92). -/
theorem HostAt.step_writeReg {off : Offset} {writing : Word → Instr} (h : HostAt (n + 1) ts (.writeReg off .t :: ops) s)
    (hk : s.clkEn = true) (hi : ∀ v, decodeAccess (.wr off v) = .row (writing v)) :
    ∃ a : HostAgent, a.todo = ops ∧ step s = exec (writing s.host.x.t) (withAgents a (List.replicate n .host ++ ts) s) :=
  ⟨_, rfl, h.step_eq.trans (busAccess_row (s := withAgents _ _ s) hk (hi _))⟩

/-- A read-modify-write of a register (30_encoding.md R92): it reads, merges on the host's side, and writes the merged word with
the block as the read left it. -/
theorem run_rmw {off : Offset} {clear set old : Word} {reading : Instr} {writing : Word → Instr}
    (h : HostAt (n + 3) ts (rmw off clear set ++ ops) s) (hk : s.clkEn = true)
    (hrd : decodeAccess (.rd off) = .row reading) (hwr : ∀ v, decodeAccess (.wr off v) = .row (writing v))
    (hread : ∀ a l, exec reading (withAgents a l s) = .next (answer old (withAgents a l s))) :
    ∃ a : HostAgent, a.todo = ops ∧ ∀ t,
      exec (writing ((old &&& ~~~clear) ||| set)) (answer old (withAgents a (List.replicate n .host ++ ts) s)) = .next t →
        Sys2Proof.core.run 3 s = .next t := by
  obtain ⟨a, ha, rfl, hreadStep⟩ := h.step_rd hk hrd hread
  have hmerge : HostAt (n + 2) ts (.merge .t clear set :: .writeReg off .t :: ops)
      (answer a.x.t (withAgents a (List.replicate (n + 2) .host ++ ts) s)) := ⟨h.clean, rfl, ha⟩
  obtain ⟨b, hb, hmerged, hmergeStep⟩ := hmerge.step_merge
  have hwrite : HostAt (n + 1) ts (.writeReg off .t :: ops)
      (answer a.x.t (withAgents b (List.replicate (n + 1) .host ++ ts) s)) := ⟨h.clean, rfl, hb⟩
  obtain ⟨c, hc, hwriteStep⟩ := hwrite.step_writeReg hk hwr
  refine ⟨c, hc, fun t ht => ?_⟩
  rw [run_succ 2 hreadStep, run_succ 1 hmergeStep]
  exact run_one (hwriteStep.trans ((congrArg (fun w => exec (writing w) _) hmerged).trans ht))

/-- A read-modify-write of CTAR0 (42_clock_transfer_attributes.md R120, R121). -/
theorem run_rmw_ctar0 {clear set : Word} (h : BlockAt (n + 3) ts (rmw Off.ctar0 clear set ++ ops) m c q s) :
    ∃ t, Sys2Proof.core.run 3 s = .next t ∧ BlockAt n ts ops m ((c &&& ~~~clear) ||| set) q t := by
  obtain ⟨h, hk, rfl, rfl, rfl⟩ := h
  obtain ⟨a, ha, hrun⟩ := run_rmw h hk (decodeAccess_access .rdCtar0) (fun v => decodeAccess_access (.wrCtar0 v))
    (old := s.ctar0) (fun _ _ => rfl)
  exact ⟨_, hrun _ rfl, ⟨h.clean, rfl, ha⟩, hk, rfl, rfl, rfl⟩

/-- A read-modify-write of MCR that leaves MSTR = 1 and that no check refuses is the write of R101, with no mark. -/
theorem run_rmw_mcr {clear set : Word} {m' : Mcr} (h : BlockAt (n + 3) ts (rmw Off.mcr clear set ++ ops) m c q s)
    (hm : unpackMcr (mergedMcr m clear set) = m') (hmstr : m'.mstr = true) (hdconf : m'.dconf = 0#2)
    (htx : m'.disTxf = m.disTxf) (hrx : m'.disRxf = m.disRxf)
    (hflush : (mcrClrTxf (mergedMcr m clear set) = false ∧ mcrClrRxf (mergedMcr m clear set) = false) ∨ m'.mdis = false) :
    ∃ t, Sys2Proof.core.run 3 s = .next t ∧ BlockAt n ts ops m' c q t ∧
      (mcrClrTxf (mergedMcr m clear set) = true → t.txf.cnt = 0) ∧
      (mcrClrRxf (mergedMcr m clear set) = true → t.rxf.cnt = 0) := by
  obtain ⟨h, hk, rfl, rfl, rfl⟩ := h
  subst hm
  obtain ⟨a, rfl, hrun⟩ := run_rmw h hk (decodeAccess_access .rdMcr) (fun v => decodeAccess_access (.wrMcr v))
    (old := packMcr s.mcr) (fun _ _ => rfl)
  change ∀ t, exec (.wrMcr (mergedMcr s.mcr clear set)) _ = .next t → _ at hrun
  generalize mergedMcr s.mcr clear set = v at *
  have hadmitted : mcrRefusal v s = none := (mcrRefusal_eq_none_iff v s).2 ⟨hdconf, .inl htx, .inl hrx, hflush⟩
  refine ⟨_, hrun _ (execWrMcr_admitted hadmitted), ?_⟩
  obtain ⟨hframe, hmcr, _, _, _, htxcnt, hrxcnt, _, _, hrefused⟩ := writeMcr_spec v _ _ rfl
  have hmaster : ¬v.getLsbD 31 = false := Bool.not_eq_false _ ▸ hmstr
  rw [if_neg fun hslave => hmaster hslave.2] at hrefused
  refine ⟨⟨⟨⟨?_, hrefused.trans h.clean.2⟩, ?_, ?_⟩, ?_, hmcr, ?_, ?_⟩, fun hclr => htxcnt.trans (if_pos hclr),
    fun hclr => hrxcnt.trans (if_pos hclr)⟩ <;> rw [hframe]
  exacts [h.clean.1, rfl, rfl, hk, rfl, rfl]

/-- SetClockGate on a disabled module or a master: `check_slave` does not refuse it (10_state.md R50, 60_exceptions.md R226). -/
theorem setClockGate_unrefused (b : Bool) (h : s.mcr.mdis = true ∨ s.mcr.mstr = true) :
    setClockGate b s = { s with clkEn := b } := by
  refine if_neg ?_
  rcases h with h | h <;> simp [running, h]

/-- The host turns the clock gate on, where the module is disabled or a master (10_state.md R50). -/
theorem HostAt.step_clockGate (h : HostAt (n + 1) ts (.clockGate true :: ops) s) (hm : s.mcr.mdis = true ∨ s.mcr.mstr = true) :
    ∃ t, step s = .next t ∧ BlockAt n ts ops s.mcr s.ctar0 s.seq t :=
  ⟨_, h.step_eq.trans (congrArg Host.Outcome.next (setClockGate_unrefused (s := withAgents _ _ s) true hm)),
    ⟨h.clean, rfl, rfl⟩, rfl, rfl, rfl, rfl⟩

/-- The pin mux step of `start()` touches nothing of the block (R201). -/
theorem BlockAt.step_pinMux {v : PinVariant} (h : BlockAt (n + 1) ts (.pinMux v :: ops) m c q s) :
    ∃ t, step s = .next t ∧ BlockAt n ts ops m c q t :=
  ⟨_, h.host.step_eq, ⟨h.host.clean, rfl, rfl⟩, h.clkEn, h.mcr, h.ctar0, h.seq⟩

end

/-- Settles O58: each step of `start()` leaves MCR as the lemma of its merged word says, and the checks of WR_MCR pass, as DCONF
is 00, no FIFO's mode changes, and `clear()` flushes a module that step 3 has enabled. -/
theorem startBringsTheModuleUp : Obligations.StartBringsTheModuleUp := by
  unfold Obligations.StartBringsTheModuleUp
  intro s ops ts hi hc hup ht ho
  have h : HostAt 15 ts (.clockGate true :: (rmw Off.mcr 0#32 0x80000000#32 ++ (rmw Off.mcr 0x00004001#32 0#32 ++
      (rmw Off.ctar0 0x78000000#32 0x38000000#32 ++ (.pinMux Config.pinVariant :: (rmw Off.mcr 0#32 0x803F0C00#32 ++
      (.ret .ok :: ops))))))) s := ⟨hc, ht, ho⟩
  obtain ⟨s1, hrun1, h1⟩ := h.step_clockGate hup
  obtain ⟨s2, hrun2, h2, _⟩ := run_rmw_mcr h1 (unpackMcr_setMstr _) rfl hi.dconf rfl rfl (.inl (mcrClr_setMstr _))
  obtain ⟨s3, hrun3, h3, _⟩ := run_rmw_mcr h2 (unpackMcr_enable _) rfl hi.dconf rfl rfl (.inr rfl)
  obtain ⟨s4, hrun4, h4⟩ := run_rmw_ctar0 h3
  obtain ⟨s5, hrun5, h5⟩ := h4.step_pinMux
  obtain ⟨s6, hrun6, h6, htx, hrx⟩ := run_rmw_mcr h5 (unpackMcr_clear _) rfl hi.dconf rfl rfl (.inr rfl)
  have hrun : Sys2Proof.core.run 15 s = .next _ := calc
    Sys2Proof.core.run 15 s
    _ = Sys2Proof.core.run 14 s1 := run_succ 14 hrun1
    _ = Sys2Proof.core.run 11 s2 := run_add 11 hrun2
    _ = Sys2Proof.core.run 8 s3 := run_add 8 hrun3
    _ = Sys2Proof.core.run 5 s4 := run_add 5 hrun4
    _ = Sys2Proof.core.run 4 s5 := run_succ 4 hrun5
    _ = Sys2Proof.core.run 1 s6 := run_add 1 hrun6
    _ = .next _ := run_one h6.host.step_eq
  exact ⟨_, hrun, h6.host.clean, rfl, rfl, rfl, h6.clkEn, congrArg Mcr.mstr h6.mcr, congrArg Mcr.mdis h6.mcr,
    congrArg Mcr.halt h6.mcr, congrArg Mcr.pcsis h6.mcr, h6.ctar0, htx (mcrClr_clear _).1, hrx (mcrClr_clear _).2, h6.seq⟩

end Sys2Proof.Machine

/-! SUPPORT. The proofs of the statements about the marks and the operating modes (60_exceptions.md). What each kind of mark makes
of a step, and which mode each condition gives, have a lemma each. -/

namespace Sys2Proof.Machine

/-! The marks. -/

/-- A state with a fault answers its first one, whether or not it is refused too (R220, log entry 10). -/
theorem step_faulted {s : State} {f : Fault} {fs : List Fault} (h : s.faults = f :: fs) : step s = .fault f := by
  simp [step, guarded, h]

/-- A refused state without a fault answers its refusal (R227, log entry 10). -/
theorem step_refused {s : State} {r : Refusal} (hf : s.faults = []) (hr : s.refused = some r) : step s = .refused r := by
  simp [step, guarded, hf, hr]

/-- Settles O10: each mark is one field's update, and `step_next` says that only a clean state steps. -/
theorem marksStopEveryAgent : Obligations.MarksStopEveryAgent := by
  unfold Obligations.MarksStopEveryAgent
  exact ⟨fun _ _ => rfl, fun _ _ => rfl, fun _ _ hstep => (step_next hstep).1⟩

/-- Settles O11, by `step_faulted` and `step_refused`. -/
theorem markedStatesAnswerTheirMark : Obligations.MarkedStatesAnswerTheirMark := by
  unfold Obligations.MarkedStatesAnswerTheirMark
  exact ⟨fun _ _ _ => step_faulted, fun _ _ => step_refused⟩

/-! The operating modes. -/

/-- A disabled module does not run (45_transfer_sequencer.md R180). -/
theorem running_disabled {s : State} (hd : s.mcr.mdis = true) : running s = false := by
  simp [running, hd]

/-- MDIS = 1 is the disabled mode, whatever else holds (R233). -/
theorem mode_disabled {s : State} (hd : s.mcr.mdis = true) : mode s = .disabled := by
  simp [mode, hd]

/-- An enabled module that does not run is stopped (R233). -/
theorem mode_notRunning {s : State} (hd : s.mcr.mdis = false) (hr : running s = false) : mode s = .stopped := by
  simp [mode, hd, hr]

/-- The mode of a module that runs is MSTR's (R233). -/
theorem mode_running {s : State} (hd : s.mcr.mdis = false) (hr : running s = true) :
    mode s = if s.mcr.mstr then .runningMaster else .runningSlave := by
  simp [mode, hd, hr]

/-- Settles O59: along `mode`'s cases, where a disabled module is no running one by `running_disabled`. -/
theorem operatingModesPartitionTheStates : Obligations.OperatingModesPartitionTheStates := by
  unfold Obligations.OperatingModesPartitionTheStates
  intro s
  cases hd : s.mcr.mdis
  · cases hr : running s
    · simp [mode_notRunning hd hr]
    · rw [mode_running hd hr]
      cases s.mcr.mstr <;> simp
  · simp [mode_disabled hd, running_disabled hd]

end Sys2Proof.Machine

/-! SUPPORT. The proofs of the statements about reset and the SR hazard (70_reset_and_hazards.md). What a listed turn makes of a step
and what a word that shows every flag clears have a lemma each; the invariant at reset is `inv_reset`. -/

namespace Sys2Proof.Machine

/-! Reset. -/

/-- Settles O45, by `inv_reset`. -/
theorem resetMeetsTheInvariant : Obligations.ResetMeetsTheInvariant := by
  unfold Obligations.ResetMeetsTheInvariant
  exact inv_reset

/-- A clean state with a turn listed makes that agent's move, with the turn taken off the list (00_scope.md R7). -/
theorem step_listedTurn {s : State} {a : Turn} {ts : List Turn} (hc : Clean s) (ht : s.turns = a :: ts) :
    step s = takeTurn a { s with turns := ts } := by
  rw [step_clean hc, move, ht]

/-- Settles O49: the listed turn is taken by `step_listedTurn`, and `chipReset` keeps only what lies outside the block. -/
theorem chipResetTurnResetsTheBlock : Obligations.ChipResetTurnResetsTheBlock := by
  unfold Obligations.ChipResetTurnResetsTheBlock
  intro s ts hc ht
  calc step s
    _ = takeTurn .chipReset { s with turns := ts } := step_listedTurn hc ht
    _ = .next (chipReset { s with turns := ts }) := rfl

/-! The hazard of SR. -/

/-- The packed SR has a 1 for every flag that is set, so as a W1C word it leaves none of them (R247). -/
theorem clearFlags_packSr (s : State) :
    clearFlags (packSr s) s = { s with tcf := false, eoqf := false, tfuf := false, rfof := false } := by
  obtain ⟨htcf, heoqf, htfuf, hrfof, _⟩ := packSr_flags s
  simp only [clearFlags, htcf, heoqf, htfuf, hrfof, Bool.and_not_self]

/-- Settles O22: the read answers the packed SR and keeps the flags, `clearFlags_packSr` is the write back, and `check_slave` after it
touches no flag. -/
theorem srWriteBackClearsEveryFlag : Obligations.SrWriteBackClearsEveryFlag := by
  unfold Obligations.SrWriteBackClearsEveryFlag
  intro s
  have hclear : clearFlags (packSr s) (answer (packSr s) s) =
      answer (packSr s) { s with tcf := false, eoqf := false, tfuf := false, rfof := false } :=
    congrArg (answer (packSr s)) (clearFlags_packSr s)
  refine ⟨answer (packSr s) s, checkSlave (clearFlags (packSr s) (answer (packSr s) s)), rfl, rfl, ?_⟩
  rw [hclear, checkSlave_tcf, checkSlave_eoqf, checkSlave_tfuf, checkSlave_rfof]
  exact ⟨rfl, rfl, rfl, rfl⟩

end Sys2Proof.Machine
